-- ==== Sys2Proof/Word.lean ====
section
/-! DEFINITION. The two word types of dmg-core (00_scope.md R30, R31): bytes on the 8-bit bus, and 16-bit
addresses and register pairs. -/

namespace Sys2Proof

/-- `u8` of R30: a register, a memory byte. -/
abbrev Byte := BitVec 8

/-- `u16` of R30: an address, SP, PC, a register pair. -/
abbrev Word := BitVec 16

end Sys2Proof
end

