-- ==== Sys2Proof/Machine/Bits.lean ====
section
/-! DEFINITION. The bit notation of 00_scope.md R31 and R32: concatenation, halves, sign and zero extension,
single-bit values, and repetition of an operation. -/

namespace Sys2Proof.Machine

/-- `a:b` of R31 for two bytes: the 16-bit value a*256+b. -/
def mkWord (hi lo : Byte) : Word := hi ++ lo

/-- `v[15:8]`. -/
def hiByte (v : Word) : Byte := v.extractLsb' 8 8

/-- `v[7:0]`. -/
def loByte (v : Word) : Byte := v.extractLsb' 0 8

/-- `sext_16(v)` of R32. -/
def sext16 (v : Byte) : Word := v.signExtend 16

/-- `zext_16(v)` of R32. -/
def zext16 (v : Byte) : Word := v.setWidth 16

/-- `signed(v)` of R32: the integer reading of a two's-complement byte. -/
def signed (v : Byte) : Int := v.toInt

/-- The n-bit value with only bit i equal to b, as read values are put together in 10_state.md. -/
def bitAt (n i : Nat) (b : Bool) : BitVec n := if b then BitVec.twoPow n i else 0

/-- `repeat n times` of the spec's pseudocode. -/
def repeatN {α : Type} (f : α → α) : Nat → α → α
  | 0, x => x
  | n + 1, x => repeatN f n (f x)

end Sys2Proof.Machine
end

