-- ==== Sys2Proof/Syntax.lean ====
section
/-! DEFINITION. The instructions of dmg-core: one constructor per row of spec/opcode_table.json (30_encoding.md
R430, R431). `AtHl`, `AtBc`, `AtNn` ... stand for the memory operands `(HL)`, `(BC)`, `(nn)` (R424, R520). -/

namespace Sys2Proof

/-- `R8[r]` of R410 without the value 110, which names the byte at HL and has forms of its own. -/
inductive Reg8 where
  | b | c | d | e | h | l | a
  deriving DecidableEq, Repr

/-- `R16[dd]` of R411. -/
inductive Pair where
  | bc | de | hl | sp
  deriving DecidableEq, Repr

/-- `R16S[qq]` of R412. -/
inductive StackPair where
  | bc | de | hl | af
  deriving DecidableEq, Repr

/-- `cond(cc)` of R413. -/
inductive Cond where
  | nz | z | nc | c
  deriving DecidableEq, Repr

/-- The instructions. An immediate is the value the instruction fetches: `nn` for n16 (R420), `e` for e8 (R421),
`n` for n8 and a8 (R422); `b` is a bit index (R416), `t` a restart target (R417). -/
inductive Instr where
  | nop
  | ldDdNn (dd : Pair) (nn : Word)
  | ldAtBcA
  | ldAtDeA
  | ldAtHlIncA
  | ldAtHlDecA
  | incDd (dd : Pair)
  | incR (r : Reg8)
  | incAtHl
  | decR (r : Reg8)
  | decAtHl
  | ldRN (r : Reg8) (n : Byte)
  | ldAtHlN (n : Byte)
  | rlca
  | rrca
  | rla
  | rra
  | daa
  | cpl
  | scf
  | ccf
  | ldAtNnSp (nn : Word)
  | addHlDd (dd : Pair)
  | ldAAtBc
  | ldAAtDe
  | ldAAtHlInc
  | ldAAtHlDec
  | decDd (dd : Pair)
  /-- STOP keeps the byte it fetches and ignores (R425). -/
  | stop (ignored : Byte)
  | jrE (e : Byte)
  | jrCcE (cc : Cond) (e : Byte)
  | ldRR (r s : Reg8)
  | ldRAtHl (r : Reg8)
  | ldAtHlR (s : Reg8)
  | halt
  | addAR (s : Reg8)
  | addAAtHl
  | addAN (n : Byte)
  | adcAR (s : Reg8)
  | adcAAtHl
  | adcAN (n : Byte)
  | subR (s : Reg8)
  | subAtHl
  | subN (n : Byte)
  | sbcAR (s : Reg8)
  | sbcAAtHl
  | sbcAN (n : Byte)
  | andR (s : Reg8)
  | andAtHl
  | andN (n : Byte)
  | xorR (s : Reg8)
  | xorAtHl
  | xorN (n : Byte)
  | orR (s : Reg8)
  | orAtHl
  | orN (n : Byte)
  | cpR (s : Reg8)
  | cpAtHl
  | cpN (n : Byte)
  | retCc (cc : Cond)
  /-- POP qq for BC, DE, HL; POP AF is a row of its own (R555, R556). -/
  | popQq (qq : StackPair)
  | popAf
  | jpCcNn (cc : Cond) (nn : Word)
  | jpNn (nn : Word)
  | callCcNn (cc : Cond) (nn : Word)
  | pushQq (qq : StackPair)
  | rstT (t : BitVec 3)
  | ret
  | reti
  | callNn (nn : Word)
  | ldhAtNA (n : Byte)
  | ldhAtCA
  | addSpE (e : Byte)
  | jpHl
  | ldAtNnA (nn : Word)
  | ldhAAtN (n : Byte)
  | ldhAAtC
  | di
  | ldHlSpE (e : Byte)
  | ldSpHl
  | ldAAtNn (nn : Word)
  | ei
  /-- The row PREFIX CB of R430, with the second byte it fetches. The decoder's second stage (R431) turns it into
  the CB form the byte selects (R434, R857; log 4). -/
  | prefixCb (op2 : Byte)
  | illegalD3
  | illegalDB
  | illegalDD
  | illegalE3
  | illegalE4
  | illegalEB
  | illegalEC
  | illegalED
  | illegalF4
  | illegalFC
  | illegalFD
  | rlcR (s : Reg8)
  | rlcAtHl
  | rrcR (s : Reg8)
  | rrcAtHl
  | rlR (s : Reg8)
  | rlAtHl
  | rrR (s : Reg8)
  | rrAtHl
  | slaR (s : Reg8)
  | slaAtHl
  | sraR (s : Reg8)
  | sraAtHl
  | swapR (s : Reg8)
  | swapAtHl
  | srlR (s : Reg8)
  | srlAtHl
  | bitBR (b : BitVec 3) (s : Reg8)
  | bitBAtHl (b : BitVec 3)
  | resBR (b : BitVec 3) (s : Reg8)
  | resBAtHl (b : BitVec 3)
  | setBR (b : BitVec 3) (s : Reg8)
  | setBAtHl (b : BitVec 3)
  deriving DecidableEq, Repr

end Sys2Proof
end

