-- ==== Sys2Proof/WellFormed.lean ====
section
/-! DEFINITION. Which terms of `Instr` are instructions. Every field but two is of a type that holds only what the
encoding holds; the two checks are those. -/

namespace Sys2Proof

/-- POP qq names BC, DE or HL: the value 11 of its field is POP AF (R555, 30_encoding.md R430 "excluded"). -/
def Instr.popPairOk : StackPair → Bool
  | .af => false
  | _ => true

/-- A term is well formed when it is an instruction under its own name: POP AF is not a POP qq, and the CB prefix is
"not an instruction by itself" (R434), so the term that spells a CB form as prefix and byte is not well formed. -/
def Instr.wellFormed : Instr → Bool
  | .popQq qq => Instr.popPairOk qq
  | .prefixCb _ => false
  | _ => true

/-- The predicate form. -/
abbrev Instr.WellFormed (i : Instr) : Prop := i.wellFormed = true

end Sys2Proof
end

