-- ==== Sys2Proof/Decode.lean ====
section
/-! DEFINITION. The decoder and the encoder of dmg-core (30_encoding.md). Decoding is by the fields x, y, z, p, q
of R401, in two stages as the processor does it: the table of R430, in which 0xCB is the row PREFIX CB, and the
table of R431 for the byte after 0xCB. It is total on bytes (R442); only a list that ends inside an instruction is
rejected. The rows of the two tables stand here as data too, so that the decoder can be held against them. -/

namespace Sys2Proof

/-! ## Fields (R401) and operand fields (R410 to R417) -/

/-- The eight values of a 3-bit field. -/
inductive Oct where
  | o0 | o1 | o2 | o3 | o4 | o5 | o6 | o7
  deriving DecidableEq, Repr

/-- A 3-bit field as one of eight cases. -/
def oct (v : BitVec 3) : Oct :=
  match v.toNat with
  | 0 => .o0 | 1 => .o1 | 2 => .o2 | 3 => .o3 | 4 => .o4 | 5 => .o5 | 6 => .o6
  | _ => .o7

/-- x = op[7:6]. -/
def fieldX (op : Byte) : BitVec 2 := op.extractLsb' 6 2
/-- y, r, t, b = op[5:3]. -/
def fieldY (op : Byte) : BitVec 3 := op.extractLsb' 3 3
/-- z, s = op[2:0]. -/
def fieldZ (op : Byte) : BitVec 3 := op.extractLsb' 0 3
/-- p, dd, qq = op[5:4]. -/
def fieldP (op : Byte) : BitVec 2 := op.extractLsb' 4 2
/-- q = op[3]. -/
def fieldQ (op : Byte) : Bool := op.getLsbD 3
/-- cc = op[4:3]. -/
def fieldCc (op : Byte) : BitVec 2 := op.extractLsb' 3 2

/-- `R8[r]` (R410): `none` is the value 110, the byte at HL. -/
def reg8OfField (r : BitVec 3) : Option Reg8 :=
  match oct r with
  | .o0 => some .b | .o1 => some .c | .o2 => some .d | .o3 => some .e
  | .o4 => some .h | .o5 => some .l | .o6 => none | .o7 => some .a

/-- `R16[dd]` (R411). -/
def pairOfField (dd : BitVec 2) : Pair :=
  match dd.toNat with
  | 0 => .bc | 1 => .de | 2 => .hl
  | _ => .sp

/-- `R16S[qq]` (R412). -/
def stackPairOfField (qq : BitVec 2) : StackPair :=
  match qq.toNat with
  | 0 => .bc | 1 => .de | 2 => .hl
  | _ => .af

/-- `cond(cc)` (R413). -/
def condOfField (cc : BitVec 2) : Cond :=
  match cc.toNat with
  | 0 => .nz | 1 => .z | 2 => .nc
  | _ => .c

/-! ## The one-byte opcode space (R430) -/

/-- The rows `10yyysss` and `10yyy110` (R414): the operation y on a register or on the byte at HL. -/
def decodeAlu (y : Oct) (operand : Option Reg8) : Instr :=
  match y, operand with
  | .o0, some s => .addAR s | .o0, none => .addAAtHl
  | .o1, some s => .adcAR s | .o1, none => .adcAAtHl
  | .o2, some s => .subR s | .o2, none => .subAtHl
  | .o3, some s => .sbcAR s | .o3, none => .sbcAAtHl
  | .o4, some s => .andR s | .o4, none => .andAtHl
  | .o5, some s => .xorR s | .o5, none => .xorAtHl
  | .o6, some s => .orR s | .o6, none => .orAtHl
  | .o7, some s => .cpR s | .o7, none => .cpAtHl

/-- The rows `11yyy110 n` (R414): the operation y on an immediate. -/
def decodeAluImm (y : Oct) (n : Byte) : Instr :=
  match y with
  | .o0 => .addAN n | .o1 => .adcAN n | .o2 => .subN n | .o3 => .sbcAN n
  | .o4 => .andN n | .o5 => .xorN n | .o6 => .orN n | .o7 => .cpN n

/-- The opcodes with x = 00. JR cc,e takes its condition from op[4:3], as R430 and R804 encode it (001cc000), although
op[5] is 1 there and R401 calls that field a condition only where op[5] is 0 (DEDUCED, log 22). `nn` is the n16 of R420 made of the two bytes after the opcode. -/
def decodeX0 (op b1 b2 : Byte) : Instr :=
  let y := oct (fieldY op)
  let r := reg8OfField (fieldY op)
  let dd := pairOfField (fieldP op)
  let cc := condOfField (fieldCc op)
  let nn := Machine.mkWord b2 b1
  match oct (fieldZ op) with
  | .o0 =>
    match y with
    | .o0 => .nop
    | .o1 => .ldAtNnSp nn
    | .o2 => .stop b1
    | .o3 => .jrE b1
    | .o4 | .o5 | .o6 | .o7 => .jrCcE cc b1
  | .o1 => if fieldQ op then .addHlDd dd else .ldDdNn dd nn
  | .o2 =>
    match y with
    | .o0 => .ldAtBcA | .o1 => .ldAAtBc | .o2 => .ldAtDeA | .o3 => .ldAAtDe
    | .o4 => .ldAtHlIncA | .o5 => .ldAAtHlInc | .o6 => .ldAtHlDecA | .o7 => .ldAAtHlDec
  | .o3 => if fieldQ op then .decDd dd else .incDd dd
  | .o4 => match r with | some r => .incR r | none => .incAtHl
  | .o5 => match r with | some r => .decR r | none => .decAtHl
  | .o6 => match r with | some r => .ldRN r b1 | none => .ldAtHlN b1
  | .o7 =>
    match y with
    | .o0 => .rlca | .o1 => .rrca | .o2 => .rla | .o3 => .rra
    | .o4 => .daa | .o5 => .cpl | .o6 => .scf | .o7 => .ccf

/-- The opcodes with x = 01: the load group, with HALT where both fields are 110 (R501, R852). -/
def decodeX1 (op : Byte) : Instr :=
  match reg8OfField (fieldY op), reg8OfField (fieldZ op) with
  | some r, some s => .ldRR r s
  | some r, none => .ldRAtHl r
  | none, some s => .ldAtHlR s
  | none, none => .halt

/-- The opcodes with x = 11. -/
def decodeX3 (op b1 b2 : Byte) : Instr :=
  let y := oct (fieldY op)
  let qq := stackPairOfField (fieldP op)
  let cc := condOfField (fieldCc op)
  let nn := Machine.mkWord b2 b1
  match oct (fieldZ op) with
  | .o0 =>
    match y with
    | .o0 | .o1 | .o2 | .o3 => .retCc cc
    | .o4 => .ldhAtNA b1 | .o5 => .addSpE b1 | .o6 => .ldhAAtN b1 | .o7 => .ldHlSpE b1
  | .o1 =>
    match y with
    | .o0 | .o2 | .o4 => .popQq qq
    | .o6 => .popAf
    | .o1 => .ret | .o3 => .reti | .o5 => .jpHl | .o7 => .ldSpHl
  | .o2 =>
    match y with
    | .o0 | .o1 | .o2 | .o3 => .jpCcNn cc nn
    | .o4 => .ldhAtCA | .o5 => .ldAtNnA nn | .o6 => .ldhAAtC | .o7 => .ldAAtNn nn
  | .o3 =>
    match y with
    | .o0 => .jpNn nn | .o1 => .prefixCb b1 | .o2 => .illegalD3 | .o3 => .illegalDB
    | .o4 => .illegalE3 | .o5 => .illegalEB | .o6 => .di | .o7 => .ei
  | .o4 =>
    match y with
    | .o0 | .o1 | .o2 | .o3 => .callCcNn cc nn
    | .o4 => .illegalE4 | .o5 => .illegalEC | .o6 => .illegalF4 | .o7 => .illegalFC
  | .o5 =>
    match y with
    | .o0 | .o2 | .o4 | .o6 => .pushQq qq
    | .o1 => .callNn nn | .o3 => .illegalDD | .o5 => .illegalED | .o7 => .illegalFD
  | .o6 => decodeAluImm y b1
  | .o7 => .rstT (fieldY op)

/-- R430: the form the first byte selects, with the bytes after it as its immediates. For 0xCB it is the row
PREFIX CB with its second byte. -/
def decodeFirst (op b1 b2 : Byte) : Instr :=
  match (fieldX op).toNat with
  | 0 => decodeX0 op b1 b2
  | 1 => decodeX1 op
  | 2 => decodeAlu (oct (fieldY op)) (reg8OfField (fieldZ op))
  | _ => decodeX3 op b1 b2

/-! ## The CB opcode space (R431) -/

/-- The CB rows with x = 00 (R415). -/
def decodeShift (y : Oct) (operand : Option Reg8) : Instr :=
  match y, operand with
  | .o0, some s => .rlcR s | .o0, none => .rlcAtHl
  | .o1, some s => .rrcR s | .o1, none => .rrcAtHl
  | .o2, some s => .rlR s | .o2, none => .rlAtHl
  | .o3, some s => .rrR s | .o3, none => .rrAtHl
  | .o4, some s => .slaR s | .o4, none => .slaAtHl
  | .o5, some s => .sraR s | .o5, none => .sraAtHl
  | .o6, some s => .swapR s | .o6, none => .swapAtHl
  | .o7, some s => .srlR s | .o7, none => .srlAtHl

/-- R431: the CB form the byte after 0xCB selects; every byte selects one. -/
def decodeCb (op2 : Byte) : Instr :=
  let b := fieldY op2
  match (fieldX op2).toNat, reg8OfField (fieldZ op2) with
  | 0, operand => decodeShift (oct b) operand
  | 1, some s => .bitBR b s
  | 1, none => .bitBAtHl b
  | 2, some s => .resBR b s
  | 2, none => .resBAtHl b
  | _, some s => .setBR b s
  | _, none => .setBAtHl b

/-! ## The decoder -/

/-- The instruction that starts with the byte `op` and is followed by `b1` and `b2` (R400, R434): the form of R430,
and for 0xCB the CB form of R431. Bytes past the instruction's end play no part. -/
def decode3 (op b1 b2 : Byte) : Instr :=
  match decodeFirst op b1 b2 with
  | .prefixCb op2 => decodeCb op2
  | i => i

/-- R402: the length is fixed by the first byte alone. -/
def opcodeLength (op : Byte) : Nat :=
  if op.toNat ∈ [0x06, 0x0E, 0x10, 0x16, 0x18, 0x1E, 0x20, 0x26, 0x28, 0x2E, 0x30, 0x36, 0x38, 0x3E, 0xC6, 0xCB,
      0xCE, 0xD6, 0xDE, 0xE0, 0xE6, 0xE8, 0xEE, 0xF0, 0xF6, 0xF8, 0xFE] then 2
  else if op.toNat ∈ [0x01, 0x08, 0x11, 0x21, 0x31, 0xC2, 0xC3, 0xC4, 0xCA, 0xCC, 0xCD, 0xD2, 0xD4, 0xDA, 0xDC,
      0xEA, 0xFA] then 3
  else 1

/-- Why a list of bytes holds no instruction. No byte is refused (R433, R442): the list can only be too short. -/
inductive DecodeError where
  /-- There is no first byte. -/
  | noOpcode
  /-- The list ends inside the instruction its first byte starts. -/
  | truncated
  deriving DecidableEq, Repr

/-- The instruction a list of bytes starts with, and the bytes after it. -/
def decode : List Byte → Except DecodeError (Instr × List Byte)
  | [] => .error .noOpcode
  | op :: rest =>
    if rest.length + 1 < opcodeLength op then .error .truncated
    else .ok (decode3 op (rest.getD 0 0) (rest.getD 1 0), rest.drop (opcodeLength op - 1))

/-! ## The encoder -/

/-- The field r of a register (R410). -/
def Reg8.field : Reg8 → BitVec 3
  | .b => 0 | .c => 1 | .d => 2 | .e => 3 | .h => 4 | .l => 5 | .a => 7

/-- The field dd (R411). -/
def Pair.field : Pair → BitVec 2
  | .bc => 0 | .de => 1 | .hl => 2 | .sp => 3

/-- The field qq (R412). -/
def StackPair.field : StackPair → BitVec 2
  | .bc => 0 | .de => 1 | .hl => 2 | .af => 3

/-- The field cc (R413). -/
def Cond.field : Cond → BitVec 2
  | .nz => 0 | .z => 1 | .nc => 2 | .c => 3

/-- An opcode pattern with a 3-bit field at op[5:3]. -/
def withY (pattern : Byte) (y : BitVec 3) : Byte := pattern ||| (y.setWidth 8 <<< 3)
/-- An opcode pattern with a 3-bit field at op[2:0]. -/
def withZ (pattern : Byte) (z : BitVec 3) : Byte := pattern ||| z.setWidth 8
/-- An opcode pattern with a 2-bit field at op[5:4]. -/
def withP (pattern : Byte) (p : BitVec 2) : Byte := pattern ||| (p.setWidth 8 <<< 4)
/-- An opcode pattern with a condition at op[4:3]. -/
def withCc (pattern : Byte) (cc : BitVec 2) : Byte := pattern ||| (cc.setWidth 8 <<< 3)
/-- n16 in memory: the low byte first (R420). -/
def imm16 (nn : Word) : List Byte := [Machine.loByte nn, Machine.hiByte nn]

/-- The bytes of an instruction, from the "match" and "pattern" columns of R430 and R431. -/
def encode : Instr → List Byte
  | .nop => [0x00]
  | .ldDdNn dd nn => withP 0x01 dd.field :: imm16 nn
  | .ldAtBcA => [0x02]
  | .ldAtDeA => [0x12]
  | .ldAtHlIncA => [0x22]
  | .ldAtHlDecA => [0x32]
  | .incDd dd => [withP 0x03 dd.field]
  | .incR r => [withY 0x04 r.field]
  | .incAtHl => [0x34]
  | .decR r => [withY 0x05 r.field]
  | .decAtHl => [0x35]
  | .ldRN r n => [withY 0x06 r.field, n]
  | .ldAtHlN n => [0x36, n]
  | .rlca => [0x07]
  | .rrca => [0x0F]
  | .rla => [0x17]
  | .rra => [0x1F]
  | .daa => [0x27]
  | .cpl => [0x2F]
  | .scf => [0x37]
  | .ccf => [0x3F]
  | .ldAtNnSp nn => 0x08 :: imm16 nn
  | .addHlDd dd => [withP 0x09 dd.field]
  | .ldAAtBc => [0x0A]
  | .ldAAtDe => [0x1A]
  | .ldAAtHlInc => [0x2A]
  | .ldAAtHlDec => [0x3A]
  | .decDd dd => [withP 0x0B dd.field]
  | .stop ignored => [0x10, ignored]
  | .jrE e => [0x18, e]
  | .jrCcE cc e => [withCc 0x20 cc.field, e]
  | .ldRR r s => [withZ (withY 0x40 r.field) s.field]
  | .ldRAtHl r => [withY 0x46 r.field]
  | .ldAtHlR s => [withZ 0x70 s.field]
  | .halt => [0x76]
  | .addAR s => [withZ 0x80 s.field]
  | .addAAtHl => [0x86]
  | .addAN n => [0xC6, n]
  | .adcAR s => [withZ 0x88 s.field]
  | .adcAAtHl => [0x8E]
  | .adcAN n => [0xCE, n]
  | .subR s => [withZ 0x90 s.field]
  | .subAtHl => [0x96]
  | .subN n => [0xD6, n]
  | .sbcAR s => [withZ 0x98 s.field]
  | .sbcAAtHl => [0x9E]
  | .sbcAN n => [0xDE, n]
  | .andR s => [withZ 0xA0 s.field]
  | .andAtHl => [0xA6]
  | .andN n => [0xE6, n]
  | .xorR s => [withZ 0xA8 s.field]
  | .xorAtHl => [0xAE]
  | .xorN n => [0xEE, n]
  | .orR s => [withZ 0xB0 s.field]
  | .orAtHl => [0xB6]
  | .orN n => [0xF6, n]
  | .cpR s => [withZ 0xB8 s.field]
  | .cpAtHl => [0xBE]
  | .cpN n => [0xFE, n]
  | .retCc cc => [withCc 0xC0 cc.field]
  | .popQq qq => [withP 0xC1 qq.field]
  | .popAf => [0xF1]
  | .jpCcNn cc nn => withCc 0xC2 cc.field :: imm16 nn
  | .jpNn nn => 0xC3 :: imm16 nn
  | .callCcNn cc nn => withCc 0xC4 cc.field :: imm16 nn
  | .pushQq qq => [withP 0xC5 qq.field]
  | .rstT t => [withY 0xC7 t]
  | .ret => [0xC9]
  | .reti => [0xD9]
  | .callNn nn => 0xCD :: imm16 nn
  | .ldhAtNA n => [0xE0, n]
  | .ldhAtCA => [0xE2]
  | .addSpE e => [0xE8, e]
  | .jpHl => [0xE9]
  | .ldAtNnA nn => 0xEA :: imm16 nn
  | .ldhAAtN n => [0xF0, n]
  | .ldhAAtC => [0xF2]
  | .di => [0xF3]
  | .ldHlSpE e => [0xF8, e]
  | .ldSpHl => [0xF9]
  | .ldAAtNn nn => 0xFA :: imm16 nn
  | .ei => [0xFB]
  | .prefixCb op2 => [0xCB, op2]
  | .illegalD3 => [0xD3]
  | .illegalDB => [0xDB]
  | .illegalDD => [0xDD]
  | .illegalE3 => [0xE3]
  | .illegalE4 => [0xE4]
  | .illegalEB => [0xEB]
  | .illegalEC => [0xEC]
  | .illegalED => [0xED]
  | .illegalF4 => [0xF4]
  | .illegalFC => [0xFC]
  | .illegalFD => [0xFD]
  | .rlcR s => [0xCB, withZ 0x00 s.field]
  | .rlcAtHl => [0xCB, 0x06]
  | .rrcR s => [0xCB, withZ 0x08 s.field]
  | .rrcAtHl => [0xCB, 0x0E]
  | .rlR s => [0xCB, withZ 0x10 s.field]
  | .rlAtHl => [0xCB, 0x16]
  | .rrR s => [0xCB, withZ 0x18 s.field]
  | .rrAtHl => [0xCB, 0x1E]
  | .slaR s => [0xCB, withZ 0x20 s.field]
  | .slaAtHl => [0xCB, 0x26]
  | .sraR s => [0xCB, withZ 0x28 s.field]
  | .sraAtHl => [0xCB, 0x2E]
  | .swapR s => [0xCB, withZ 0x30 s.field]
  | .swapAtHl => [0xCB, 0x36]
  | .srlR s => [0xCB, withZ 0x38 s.field]
  | .srlAtHl => [0xCB, 0x3E]
  | .bitBR b s => [0xCB, withZ (withY 0x40 b) s.field]
  | .bitBAtHl b => [0xCB, withY 0x46 b]
  | .resBR b s => [0xCB, withZ (withY 0x80 b) s.field]
  | .resBAtHl b => [0xCB, withY 0x86 b]
  | .setBR b s => [0xCB, withZ (withY 0xC0 b) s.field]
  | .setBAtHl b => [0xCB, withY 0xC6 b]

/-- The length in bytes (R400, R402). -/
def Instr.length (i : Instr) : Nat := (encode i).length

/-! ## The rows of R430 and R431 as data -/

/-- A row: a byte selects it when `op & mask = match` and the byte is not excluded (R430). -/
structure OpcodeRow where
  value : Nat
  mask : Nat
  excluded : List Nat
  deriving DecidableEq, Repr

/-- A byte selects the row. -/
def OpcodeRow.selects (r : OpcodeRow) (op : Byte) : Bool :=
  (op.toNat &&& r.mask) == r.value && !r.excluded.contains op.toNat

/-- The rows of R430 in the order of spec/opcode_table.json; the unused opcodes are its last eleven. -/
def oneByteRows : List OpcodeRow :=
   [⟨0x00, 0xFF, []⟩, -- NOP
    ⟨0x01, 0xCF, []⟩, -- LD dd,nn
    ⟨0x02, 0xFF, []⟩, -- LD (BC),A
    ⟨0x12, 0xFF, []⟩, -- LD (DE),A
    ⟨0x22, 0xFF, []⟩, -- LD (HL+),A
    ⟨0x32, 0xFF, []⟩, -- LD (HL-),A
    ⟨0x03, 0xCF, []⟩, -- INC dd
    ⟨0x04, 0xC7, [0x34]⟩, -- INC r
    ⟨0x34, 0xFF, []⟩, -- INC (HL)
    ⟨0x05, 0xC7, [0x35]⟩, -- DEC r
    ⟨0x35, 0xFF, []⟩, -- DEC (HL)
    ⟨0x06, 0xC7, [0x36]⟩] -- LD r,n
   ++
   [⟨0x36, 0xFF, []⟩, -- LD (HL),n
    ⟨0x07, 0xFF, []⟩, -- RLCA
    ⟨0x0F, 0xFF, []⟩, -- RRCA
    ⟨0x17, 0xFF, []⟩, -- RLA
    ⟨0x1F, 0xFF, []⟩, -- RRA
    ⟨0x27, 0xFF, []⟩, -- DAA
    ⟨0x2F, 0xFF, []⟩, -- CPL
    ⟨0x37, 0xFF, []⟩, -- SCF
    ⟨0x3F, 0xFF, []⟩, -- CCF
    ⟨0x08, 0xFF, []⟩, -- LD (nn),SP
    ⟨0x09, 0xCF, []⟩, -- ADD HL,dd
    ⟨0x0A, 0xFF, []⟩] -- LD A,(BC)
   ++
   [⟨0x1A, 0xFF, []⟩, -- LD A,(DE)
    ⟨0x2A, 0xFF, []⟩, -- LD A,(HL+)
    ⟨0x3A, 0xFF, []⟩, -- LD A,(HL-)
    ⟨0x0B, 0xCF, []⟩, -- DEC dd
    ⟨0x10, 0xFF, []⟩, -- STOP
    ⟨0x18, 0xFF, []⟩, -- JR e
    ⟨0x20, 0xE7, []⟩, -- JR cc,e
    ⟨0x40, 0xC0, [0x46, 0x4E, 0x56, 0x5E, 0x66, 0x6E, 0x70, 0x71, 0x72, 0x73, 0x74, 0x75, 0x76, 0x77, 0x7E]⟩, -- LD r,r'
    ⟨0x46, 0xC7, [0x76]⟩, -- LD r,(HL)
    ⟨0x70, 0xF8, [0x76]⟩, -- LD (HL),r
    ⟨0x76, 0xFF, []⟩, -- HALT
    ⟨0x80, 0xF8, [0x86]⟩] -- ADD A,r
   ++
   [⟨0x86, 0xFF, []⟩, -- ADD A,(HL)
    ⟨0xC6, 0xFF, []⟩, -- ADD A,n
    ⟨0x88, 0xF8, [0x8E]⟩, -- ADC A,r
    ⟨0x8E, 0xFF, []⟩, -- ADC A,(HL)
    ⟨0xCE, 0xFF, []⟩, -- ADC A,n
    ⟨0x90, 0xF8, [0x96]⟩, -- SUB r
    ⟨0x96, 0xFF, []⟩, -- SUB (HL)
    ⟨0xD6, 0xFF, []⟩, -- SUB n
    ⟨0x98, 0xF8, [0x9E]⟩, -- SBC A,r
    ⟨0x9E, 0xFF, []⟩, -- SBC A,(HL)
    ⟨0xDE, 0xFF, []⟩, -- SBC A,n
    ⟨0xA0, 0xF8, [0xA6]⟩] -- AND r
   ++
   [⟨0xA6, 0xFF, []⟩, -- AND (HL)
    ⟨0xE6, 0xFF, []⟩, -- AND n
    ⟨0xA8, 0xF8, [0xAE]⟩, -- XOR r
    ⟨0xAE, 0xFF, []⟩, -- XOR (HL)
    ⟨0xEE, 0xFF, []⟩, -- XOR n
    ⟨0xB0, 0xF8, [0xB6]⟩, -- OR r
    ⟨0xB6, 0xFF, []⟩, -- OR (HL)
    ⟨0xF6, 0xFF, []⟩, -- OR n
    ⟨0xB8, 0xF8, [0xBE]⟩, -- CP r
    ⟨0xBE, 0xFF, []⟩, -- CP (HL)
    ⟨0xFE, 0xFF, []⟩, -- CP n
    ⟨0xC0, 0xE7, []⟩] -- RET cc
   ++
   [⟨0xC1, 0xCF, [0xF1]⟩, -- POP qq
    ⟨0xF1, 0xFF, []⟩, -- POP AF
    ⟨0xC2, 0xE7, []⟩, -- JP cc,nn
    ⟨0xC3, 0xFF, []⟩, -- JP nn
    ⟨0xC4, 0xE7, []⟩, -- CALL cc,nn
    ⟨0xC5, 0xCF, []⟩, -- PUSH qq
    ⟨0xC7, 0xC7, []⟩, -- RST t
    ⟨0xC9, 0xFF, []⟩, -- RET
    ⟨0xD9, 0xFF, []⟩, -- RETI
    ⟨0xCD, 0xFF, []⟩, -- CALL nn
    ⟨0xE0, 0xFF, []⟩, -- LDH (n),A
    ⟨0xE2, 0xFF, []⟩] -- LDH (C),A
   ++
   [⟨0xE8, 0xFF, []⟩, -- ADD SP,e
    ⟨0xE9, 0xFF, []⟩, -- JP HL
    ⟨0xEA, 0xFF, []⟩, -- LD (nn),A
    ⟨0xF0, 0xFF, []⟩, -- LDH A,(n)
    ⟨0xF2, 0xFF, []⟩, -- LDH A,(C)
    ⟨0xF3, 0xFF, []⟩, -- DI
    ⟨0xF8, 0xFF, []⟩, -- LD HL,SP+e
    ⟨0xF9, 0xFF, []⟩, -- LD SP,HL
    ⟨0xFA, 0xFF, []⟩, -- LD A,(nn)
    ⟨0xFB, 0xFF, []⟩, -- EI
    ⟨0xCB, 0xFF, []⟩, -- PREFIX CB
    ⟨0xD3, 0xFF, []⟩] -- ILLEGAL_D3
   ++
   [⟨0xDB, 0xFF, []⟩, -- ILLEGAL_DB
    ⟨0xDD, 0xFF, []⟩, -- ILLEGAL_DD
    ⟨0xE3, 0xFF, []⟩, -- ILLEGAL_E3
    ⟨0xE4, 0xFF, []⟩, -- ILLEGAL_E4
    ⟨0xEB, 0xFF, []⟩, -- ILLEGAL_EB
    ⟨0xEC, 0xFF, []⟩, -- ILLEGAL_EC
    ⟨0xED, 0xFF, []⟩, -- ILLEGAL_ED
    ⟨0xF4, 0xFF, []⟩, -- ILLEGAL_F4
    ⟨0xFC, 0xFF, []⟩, -- ILLEGAL_FC
    ⟨0xFD, 0xFF, []⟩] -- ILLEGAL_FD

/-- The rows of R431, the second byte of a CB form. -/
def cbRows : List OpcodeRow :=
   [⟨0x00, 0xF8, [0x06]⟩, -- RLC r
    ⟨0x06, 0xFF, []⟩, -- RLC (HL)
    ⟨0x08, 0xF8, [0x0E]⟩, -- RRC r
    ⟨0x0E, 0xFF, []⟩, -- RRC (HL)
    ⟨0x10, 0xF8, [0x16]⟩, -- RL r
    ⟨0x16, 0xFF, []⟩, -- RL (HL)
    ⟨0x18, 0xF8, [0x1E]⟩, -- RR r
    ⟨0x1E, 0xFF, []⟩, -- RR (HL)
    ⟨0x20, 0xF8, [0x26]⟩, -- SLA r
    ⟨0x26, 0xFF, []⟩, -- SLA (HL)
    ⟨0x28, 0xF8, [0x2E]⟩, -- SRA r
    ⟨0x2E, 0xFF, []⟩] -- SRA (HL)
   ++
   [⟨0x30, 0xF8, [0x36]⟩, -- SWAP r
    ⟨0x36, 0xFF, []⟩, -- SWAP (HL)
    ⟨0x38, 0xF8, [0x3E]⟩, -- SRL r
    ⟨0x3E, 0xFF, []⟩, -- SRL (HL)
    ⟨0x40, 0xC0, [0x46, 0x4E, 0x56, 0x5E, 0x66, 0x6E, 0x76, 0x7E]⟩, -- BIT b,r
    ⟨0x46, 0xC7, []⟩, -- BIT b,(HL)
    ⟨0x80, 0xC0, [0x86, 0x8E, 0x96, 0x9E, 0xA6, 0xAE, 0xB6, 0xBE]⟩, -- RES b,r
    ⟨0x86, 0xC7, []⟩, -- RES b,(HL)
    ⟨0xC0, 0xC0, [0xC6, 0xCE, 0xD6, 0xDE, 0xE6, 0xEE, 0xF6, 0xFE]⟩, -- SET b,r
    ⟨0xC6, 0xC7, []⟩] -- SET b,(HL)

/-- The place of an instruction's row in spec/opcode_table.json: the constructors of `Instr` stand in the table's
order, the 94 rows of R430 first. -/
def Instr.rowIndex (i : Instr) : Nat := i.ctorIdx

/-- The places in `rows` of the rows a byte selects. -/
def selectedRows (rows : List OpcodeRow) (op : Byte) : List Nat :=
  (List.range rows.length).filter fun k => (rows[k]?.any (·.selects op))

/-! ## The table's words -/

/-- The bytes of an instruction whose bits the table numbers as w. A word of 16 bits whose upper byte is 0xCB is a
row of R431, which the table writes with the first byte as the more significant one (0xCB00 for RLC B); every other
word has its first byte in bits 7 to 0 (log 5). -/
def tableBytes (nbits w : Nat) : List Byte :=
  let byte (k : Nat) : Byte := BitVec.ofNat 8 (w / 256 ^ k)
  if nbits = 16 ∧ byte 1 = 0xCB then [byte 1, byte 0, 0] else [byte 0, byte 1, byte 2]

/-- The instruction the decoder reads from a word of the table. A row of R430 is one byte wide in the table and is
read by the decoder's first stage, so the row PREFIX CB answers as itself; a longer word is read by both stages
(log 4, log 5). -/
def decodeTableWord (nbits w : Nat) : Option Instr :=
  match tableBytes nbits w with
  | [op, b1, b2] => some (if nbits ≤ 8 then decodeFirst op b1 b2 else decode3 op b1 b2)
  | _ => none

end Sys2Proof
end

