-- ==== Sys2Proof/Config.lean ====
section
/-! DEFINITION. What the spec fixes for every dmg-core (00_scope.md R11 to R13, R25), and the two
parameters that are functions (R19, R20). -/

namespace Sys2Proof

/-- The two hardware modes, fixed for the life of a machine (R3, R16). -/
inductive HwMode where
  | monochrome
  | color
  deriving DecidableEq, Repr

/-- What the core hands to the audio sink (80_host_interface.md R1231): the writes to 0xFF10-0xFF3F and the
advances after every step. -/
inductive AudioEvent where
  | write (a : Word) (v : Byte)
  | advance (cycles : Nat)
  deriving DecidableEq, Repr

/-- The parameter AUDIO_READ (R20, OPEN; D14): the spec's reference choice, or a sink of which nothing is known
(DESIGN CHOICE, log 10). -/
inductive AudioRead where
  | reference
  | unknownSink
  deriving DecidableEq, Repr

/-- The parameter SERIAL_IN (R19), a function from transfer numbers to bytes. State is plain data, so it is either a
function written out, or one of which nothing is known (DESIGN CHOICE, log 9). -/
inductive SerialIn where
  /-- The bytes of the first transfers, and the byte of every later one. -/
  | listed (first : List Byte) (rest : Byte)
  /-- A link partner, by a number that tells partners apart: any function at all. -/
  | partner (id : Nat)
  deriving DecidableEq, Repr

/-- SERIAL_IN by default: constant 0xFF, no link partner (R19). -/
def SerialIn.default : SerialIn := .listed [] 0xFF

/-- CLOCK_HZ (R11). -/
def Config.clockHz : Nat := 4194304

/-- FRAME_CYCLES (R12): 154 lines of 456 cycles. -/
def Config.frameCycles : Nat := 70224

/-- SERVICE_CYCLES (R13). -/
def Config.serviceCycles : Nat := 20

/-- HALT_IDLE_CYCLES (R13). -/
def Config.haltIdleCycles : Nat := 4

/-- STOP_IDLE_CYCLES (R13). -/
def Config.stopIdleCycles : Nat := 4

/-- LOCK_IDLE_CYCLES (R13). -/
def Config.lockIdleCycles : Nat := 4

/-- SPEED_SWITCH_CYCLES (R13). -/
def Config.speedSwitchCycles : Nat := 8200

/-- HDMA_BLOCK_CYCLES (R25): cycles of one 16-byte block in normal speed. -/
def Config.hdmaBlockCycles : Nat := 32

/-- RTC_TICK_CYCLES (R25): normal-speed cycles of one second of the clock. -/
def Config.rtcTickCycles : Nat := Config.clockHz

/-- AUDIO_READ where nothing is known of the sink (R20, OPEN): a function of everything the sink was given and
of the address. It has no body, so no statement can rest on a value of it (log 10). -/
opaque Config.audioRead : List AudioEvent → Word → Byte

/-- SERIAL_IN where nothing is known of the link partner (R19): a function of the partner and of the transfer's
number. It has no body, so a statement that holds of it holds of every SERIAL_IN (log 9). -/
opaque Config.serialIn : Nat → Nat → Byte

end Sys2Proof
end

