-- ==== Sys2Proof/Machine/Memory.lean ====
section
/-! DEFINITION. The memories of dmg-core (10_state.md R170, 00_scope.md R14) as one store of bytes. Each memory has
a place of its own in the store; the 16-bit address map in front of it is Machine/Bus.lean. -/

namespace Sys2Proof.Machine

/-- A list of (place, byte) pairs. What a place that is not listed holds is `Memory.unlisted`. -/
abbrev Memory := List Host.Cell

/-! ## The layout of the store (DESIGN CHOICE, log 3) -/

/-- OAM, 160 bytes (R171). -/
def oamBase : Nat := 0x0
/-- HRAM, 127 bytes (R215). -/
def hramBase : Nat := 0x100
/-- BGPAL, 64 bytes (R173). -/
def bgPalBase : Nat := 0x200
/-- OBJPAL, 64 bytes (R173). -/
def objPalBase : Nat := 0x240
/-- VRAM, two banks of 8192 bytes (R172, R207). -/
def vramBase : Nat := 0x4000
/-- WRAM, eight banks of 4096 bytes (R209, R210). -/
def wramBase : Nat := 0x8000
/-- Cartridge RAM, RAM_BYTES bytes (R303). -/
def cramBase : Nat := 0x10000
/-- BOOT_IMAGE (R219): the first place no instruction can write. -/
def bootBase : Nat := 0x30000
/-- ROM, ROM_BANKS banks of 16384 bytes (R303). -/
def romBase : Nat := 0x40000

def vramCell (bank offset : Nat) : Nat := vramBase + bank * 0x2000 + offset
def wramCell (bank offset : Nat) : Nat := wramBase + bank * 0x1000 + offset

/-- What a place holds before anything is written there: 0xFF in palette memory, 0x00 elsewhere (R170, boot-skip;
the default of SAVE_RAM_INIT, R24; for ROM and BOOT_IMAGE see log 3). -/
def Memory.unlisted (k : Nat) : Byte :=
  if bgPalBase ≤ k ∧ k < bgPalBase + 128 then 0xFF else 0x00

/-- The byte at a place. -/
def Memory.read (m : Memory) (k : Nat) : Byte :=
  match m with
  | [] => Memory.unlisted k
  | (k', v) :: rest => if k' = k then v else Memory.read rest k

/-- Puts a byte that is to be listed, keeping the places in rising order. -/
def Memory.put (m : Memory) (k : Nat) (v : Byte) : Memory :=
  match m with
  | [] => [(k, v)]
  | (k', v') :: rest =>
    if k < k' then (k, v) :: (k', v') :: rest
    else if k = k' then (k, v) :: rest
    else (k', v') :: Memory.put rest k v

/-- Takes a place off the list. -/
def Memory.erase (m : Memory) (k : Nat) : Memory :=
  match m with
  | [] => []
  | (k', v') :: rest => if k' = k then Memory.erase rest k else (k', v') :: Memory.erase rest k

/-- Stores a byte. A place that then holds what it holds unlisted is taken off the list. -/
def Memory.write (m : Memory) (k : Nat) (v : Byte) : Memory :=
  if v = Memory.unlisted k then Memory.erase m k else Memory.put m k v

/-- Stores a run of bytes from a place on. -/
def Memory.writeList (m : Memory) (k : Nat) : List Byte → Memory
  | [] => m
  | v :: rest => Memory.writeList (Memory.write m k v) (k + 1) rest

/-- The canonical form from a place on: the places rise and no entry is redundant. -/
def Memory.wfFrom (lo : Nat) : Memory → Bool
  | [] => true
  | (k, v) :: rest => decide (lo ≤ k) && decide (v ≠ Memory.unlisted k) && Memory.wfFrom (k + 1) rest

/-- The canonical form: equal memories are equal lists. -/
def Memory.wf (m : Memory) : Bool := Memory.wfFrom 0 m

end Sys2Proof.Machine
end

