-- ==== Sys2Proof/Machine/State.lean ====
section
/-! DEFINITION. The state of dmg-core (10_state.md, 25_cartridge.md R310 and R330, 65_ppu.md R1001,
80_host_interface.md R1210), and the state right after construction on the boot-skip path (70_reset_and_hazards.md
R1101). All of it is plain data. -/

namespace Sys2Proof.Machine

/-! ## Processor (R100 to R111) -/

/-- The flags of F (R102). F[3:0] read 0 always and are not held (log 11). -/
structure Flags where
  z : Bool
  n : Bool
  h : Bool
  c : Bool
  deriving DecidableEq, Repr

/-- The processor's registers, visible (R100 to R105) and hidden (R106 to R111). -/
structure Cpu where
  a : Byte
  f : Flags
  b : Byte
  c : Byte
  d : Byte
  e : Byte
  h : Byte
  l : Byte
  sp : Word
  pc : Word
  ime : Bool
  imeDelay : Bool
  halted : Bool
  stopped : Bool
  haltBugPending : Bool
  locked : Bool
  lockOpcode : Byte
  doubleSpeed : Bool
  deriving DecidableEq, Repr

/-- What the current or last step reports (R36, R234, R860): `cycles` and `gdma_cycles` in processor cycles, and
the normal-speed cycles of the whole step. These are the model's own fields (log 7). -/
structure Account where
  cycles : Nat
  gdmaCycles : Nat
  normalCycles : Nat
  deriving DecidableEq, Repr

/-! ## Interrupts, joypad, serial port, timer -/

/-- IE and IF (R143, R128). -/
structure Irq where
  ie : Byte
  iflag : BitVec 5
  deriving DecidableEq, Repr

/-- P1's select bits (R121) and PRESSED (R180, R950). -/
structure Joypad where
  selAction : Bool
  selDir : Bool
  pressed : Byte
  deriving DecidableEq, Repr

/-- SB, SC and the hidden state of the serial port (R122, R123, R180). -/
structure Serial where
  sb : Byte
  start : Bool
  fast : Bool
  internal : Bool
  /-- SER_BITS, 0 to 8. -/
  bits : Nat
  /-- SER_CLK. -/
  clk : Nat
  /-- SER_COUNT. -/
  count : Nat
  deriving DecidableEq, Repr

/-- DIV16, TIMA, TMA, TAC (R124 to R127). -/
structure Timer where
  div16 : Word
  tima : Byte
  tma : Byte
  tac : BitVec 3
  deriving DecidableEq, Repr

/-! ## Picture engine -/

/-- MODE (R1001). -/
inductive PpuMode where
  | hblank | vblank | oamScan | drawing
  deriving DecidableEq, Repr

/-- The registers (R130 to R141) and the position (R1001) of the picture engine. -/
structure Ppu where
  lcdc : Byte
  /-- STAT[6:3]: bit 0 MODE0_INT, bit 1 MODE1_INT, bit 2 MODE2_INT, bit 3 LYC_INT. -/
  stat : BitVec 4
  scy : Byte
  scx : Byte
  lyc : Byte
  bgp : Byte
  obp0 : Byte
  obp1 : Byte
  wy : Byte
  wx : Byte
  /-- LINE, 0 to 153. -/
  line : Nat
  /-- DOT, 0 to 455. -/
  dot : Nat
  mode : PpuMode
  winLine : Byte
  winSeen : Bool
  deriving DecidableEq, Repr

/-! ## DMA and color-mode registers -/

/-- HDMA1 to HDMA5 (R152 to R156). -/
structure Hdma where
  src : Word
  dst : BitVec 13
  len : BitVec 7
  active : Bool
  deriving DecidableEq, Repr

/-- BCPS or OCPS (R157, R159). -/
structure PaletteIndex where
  autoInc : Bool
  index : BitVec 6
  deriving DecidableEq, Repr

/-- KEY1.ARMED, VBK, SVBK, BCPS, OCPS (R150, R151, R161, R157, R159). -/
structure ColorRegs where
  key1Armed : Bool
  vbk : BitVec 1
  svbk : BitVec 3
  bcps : PaletteIndex
  ocps : PaletteIndex
  deriving DecidableEq, Repr

/-! ## Mapper (R310, R330) -/

/-- One copy of the clock registers (R330); `dayHigh`, `halt` and `dayCarry` are bits 0, 6 and 7 of RTC_DH. -/
structure RtcRegs where
  s : BitVec 6
  m : BitVec 6
  h : BitVec 5
  dl : Byte
  dayHigh : Bool
  halt : Bool
  dayCarry : Bool
  deriving DecidableEq, Repr

/-- The clock of variant B: live registers, latched copy, RTC_SUB. -/
structure Rtc where
  live : RtcRegs
  latched : RtcRegs
  sub : Nat
  deriving DecidableEq, Repr

/-- The registers of variant A. -/
structure VariantA where
  ramEn : Bool
  bank1 : BitVec 5
  bank2 : BitVec 2
  mode : Bool
  deriving DecidableEq, Repr

/-- The registers of variant B. -/
structure VariantB where
  ramEn : Bool
  romb : BitVec 7
  sel : Byte
  latchPrev : Byte
  rtc : Rtc
  deriving DecidableEq, Repr

/-- The mapper present and its state (R303, R310). -/
inductive Mapper where
  | noMapper
  | variantA (r : VariantA)
  | variantB (r : VariantB)
  deriving DecidableEq, Repr

/-- ROM_BANKS, RAM_BANKS and RAM_BYTES (R15, R303). -/
structure Cart where
  romBanks : Nat
  ramBanks : Nat
  ramBytes : Nat
  deriving DecidableEq, Repr

/-! ## Fixed parameters and outputs -/

/-- A colour as RGB555: bits 4-0 red, 9-5 green, 14-10 blue (R1052). Bit 15 of an output colour is zero. -/
abbrev Rgb555 := BitVec 15

/-- DMG_SHADES: the output colours of shades 0 to 3 (R22, R1052). -/
structure Shades where
  s0 : Rgb555
  s1 : Rgb555
  s2 : Rgb555
  s3 : Rgb555
  deriving DecidableEq, Repr

/-- The parameters that are fixed at construction and read while the machine runs (R16 to R20, R22). -/
structure Params where
  mode : HwMode
  haltBug : Bool
  vramBlocking : Bool
  serialIn : SerialIn
  audioRead : AudioRead
  shades : Shades
  deriving DecidableEq, Repr

/-- One call of the video capability: `render_line(line, row)` (R1230). -/
structure VideoRow where
  line : Nat
  row : List Word
  deriving DecidableEq, Repr

/-- The machine. `audio` and `video` are what was handed to the two capabilities, the newest first (R1230, R1231,
log 8). -/
structure State where
  params : Params
  cpu : Cpu
  acct : Account
  irq : Irq
  joypad : Joypad
  serial : Serial
  timer : Timer
  ppu : Ppu
  /-- DMA, the last byte written (R136). -/
  dma : Byte
  hdma : Hdma
  color : ColorRegs
  /-- BOOT_MAPPED (R142). -/
  bootMapped : Bool
  cart : Cart
  mapper : Mapper
  mem : Memory
  audio : List AudioEvent
  video : List VideoRow
  /-- CARRY (R1210). -/
  carry : Nat
  /-- Whether a frame call has been made: it ends the host's right to replace the cartridge RAM and the clock (R335,
  R1220). The model's own field (log 14). -/
  frameCalled : Bool
  deriving DecidableEq, Repr

/-! ## Outcomes -/

/-- The reasons a step can fault. There are none: no instruction and no access faults (R201, R920; log 12). -/
inductive Fault
  deriving DecidableEq, Repr

/-- The reasons a step or a host action can be refused. -/
inductive Refusal where
  /-- Raised by an arm of `exec` whose instruction has no meaning yet; no arm of this model does. Safe: the run
  stops where the hardware goes on. -/
  | notModelled (mnemonic : String)
  /-- Raised by `hostAct`, never by a step or an instruction, for an action R1220 does not let the host take (log 14).
  Safe: the spec has no machine that takes it. -/
  | hostAction
  deriving DecidableEq, Repr

/-- The outcome of a step. -/
abbrev Result := Host.Outcome State Fault Refusal

/-! ## The state after construction -/

/-- The registers after boot-skip (R112). -/
def Cpu.bootSkip : HwMode → Cpu
  | .monochrome =>
    { a := 0x01, f := ⟨true, false, true, true⟩, b := 0x00, c := 0x13, d := 0x00, e := 0xD8, h := 0x01, l := 0x4D,
      sp := 0xFFFE, pc := 0x0100, ime := false, imeDelay := false, halted := false, stopped := false,
      haltBugPending := false, locked := false, lockOpcode := 0x00, doubleSpeed := false }
  | .color =>
    { a := 0x11, f := ⟨true, false, false, false⟩, b := 0x00, c := 0x00, d := 0xFF, e := 0x56, h := 0x00, l := 0x0D,
      sp := 0xFFFE, pc := 0x0100, ime := false, imeDelay := false, halted := false, stopped := false,
      haltBugPending := false, locked := false, lockOpcode := 0x00, doubleSpeed := false }

/-- SB, SC and the serial port after boot-skip (R122, R123, R180); FAST does not exist in monochrome mode and holds
0 there (log 16). -/
def Serial.bootSkip : HwMode → Serial
  | .monochrome => { sb := 0x00, start := false, fast := false, internal := false, bits := 0, clk := 0, count := 0 }
  | .color => { sb := 0x00, start := false, fast := true, internal := true, bits := 0, clk := 0, count := 0 }

/-- The picture engine after boot-skip (R130 to R141, R1003). -/
def Ppu.bootSkip : Ppu :=
  { lcdc := 0x91, stat := 0, scy := 0x00, scx := 0x00, lyc := 0x00, bgp := 0xFC, obp0 := 0xFF, obp1 := 0xFF,
    wy := 0x00, wx := 0x00, line := 0, dot := 0, mode := .oamScan, winLine := 0x00, winSeen := false }

/-- HDMA1 to HDMA5 after boot-skip (R152 to R156). -/
def Hdma.bootSkip : Hdma := { src := 0x0000, dst := 0, len := 0x7F, active := false }

/-- KEY1, VBK, SVBK, BCPS and OCPS after boot-skip (R150, R151, R157, R159, R161). -/
def ColorRegs.bootSkip : ColorRegs :=
  { key1Armed := false, vbk := 0, svbk := 0, bcps := ⟨false, 0⟩, ocps := ⟨false, 0⟩ }

/-- The audio writes of construction, in the order R129 gives them. -/
def bootAudioWrites : List AudioEvent :=
  [.write 0xFF10 0x80, .write 0xFF11 0xBF, .write 0xFF12 0xF3, .write 0xFF14 0xBF, .write 0xFF16 0x3F,
   .write 0xFF17 0x00, .write 0xFF19 0xBF, .write 0xFF1A 0x7F, .write 0xFF1B 0xFF, .write 0xFF1C 0x9F,
   .write 0xFF1E 0xBF, .write 0xFF20 0xFF, .write 0xFF21 0x00, .write 0xFF22 0x00, .write 0xFF23 0xBF,
   .write 0xFF24 0x77, .write 0xFF25 0xF3, .write 0xFF26 0xF1]

/-- DMG_SHADES by default (R22, R1052). -/
def Shades.default : Shades := { s0 := 0x7FFF, s1 := 0x56B5, s2 := 0x294A, s3 := 0x0000 }

/-- The boot-skip procedure (R1101) after its step 1: `mem` holds the image and the cartridge RAM, and every other
memory is unlisted. -/
def State.bootSkip (params : Params) (divInit : Word) (cart : Cart) (mapper : Mapper) (mem : Memory) : State :=
  { params := params
    cpu := Cpu.bootSkip params.mode
    acct := { cycles := 0, gdmaCycles := 0, normalCycles := 0 }
    irq := { ie := 0x00, iflag := 0b00001 }
    joypad := { selAction := false, selDir := false, pressed := 0x00 }
    serial := Serial.bootSkip params.mode
    timer := { div16 := divInit, tima := 0x00, tma := 0x00, tac := 0 }
    ppu := Ppu.bootSkip
    dma := 0xFF
    hdma := Hdma.bootSkip
    color := ColorRegs.bootSkip
    bootMapped := false
    cart := cart
    mapper := mapper
    mem := mem
    audio := bootAudioWrites.reverse
    video := []
    carry := 0
    frameCalled := false }

/-- The parameters by default (R17 to R20, R22), in a given mode. -/
def Params.default (mode : HwMode) : Params :=
  { mode := mode, haltBug := true, vramBlocking := true, serialIn := SerialIn.default, audioRead := .reference,
    shades := Shades.default }

/-- The machine right after reset. The spec's reset is construction (R1100), which takes an image: this is the
machine built on the boot-skip path, every parameter at its default, from the image of 32768 bytes 0x00, which R303
reads as a no-mapper image of two banks and R1201 as a monochrome one (log 1). -/
def State.reset : State :=
  State.bootSkip (Params.default .monochrome) 0xABCC { romBanks := 2, ramBanks := 0, ramBytes := 0 } .noMapper []

end Sys2Proof.Machine
end

