-- ==== Sys2Proof/Machine/Interrupts.lean ====
section
/-! DEFINITION. The interrupt controller (60_exceptions.md R900 to R904): requests, pending interrupts, priority and
vectors. The entry itself is `service` in Machine/Ops.lean. -/

namespace Sys2Proof.Machine

/-- The five sources in priority order (R902). -/
inductive Source where
  | vblank | stat | timer | serial | joypad
  deriving DecidableEq, Repr

/-- The source's bit k in IE and IF (R902). -/
def Source.bit : Source → Nat
  | .vblank => 0 | .stat => 1 | .timer => 2 | .serial => 3 | .joypad => 4

/-- The vector 0x0040 + 8 * k (R902). -/
def Source.vector (k : Source) : Word := BitVec.ofNat 16 (0x0040 + 8 * k.bit)

/-- `request(k)` (R901). -/
def request (k : Source) (s : State) : State :=
  { s with irq.iflag := s.irq.iflag ||| BitVec.twoPow 5 k.bit }

/-- `pending = IE & IF & 0x1F` (R860, R903). -/
def pending (s : State) : BitVec 5 := s.irq.ie.setWidth 5 &&& s.irq.iflag

/-- The pending interrupt of the highest priority (R904). -/
def firstPending (s : State) : Option Source :=
  [Source.vblank, .stat, .timer, .serial, .joypad].find? fun k => (pending s).getLsbD k.bit

/-- `IF[k] <- 0` (R911). -/
def clearPending (k : Source) (s : State) : State :=
  { s with irq.iflag := s.irq.iflag &&& ~~~(BitVec.twoPow 5 k.bit) }

end Sys2Proof.Machine
end

