-- ==== Sys2Proof/Machine/Joypad.lean ====
section
/-! DEFINITION. The joypad (60_exceptions.md R950; 10_state.md R121). In a button set bits 0 to 3 are Right, Left,
Up, Down and bits 4 to 7 are A, B, Select, Start (80_host_interface.md R1220). -/

namespace Sys2Proof.Machine

/-- The read value of P1 (R121). -/
def readP1 (j : Joypad) : Byte :=
  let dir : Byte := if j.selDir then 0 else j.pressed &&& 0x0F
  let action : Byte := if j.selAction then 0 else j.pressed >>> 4
  0xC0 ||| bitAt 8 5 j.selAction ||| bitAt 8 4 j.selDir ||| (0x0F &&& ~~~(dir ||| action))

/-- A write of v to P1 (R121): it raises no interrupt. -/
def writeP1 (v : Byte) (s : State) : State :=
  { s with joypad.selAction := v.getLsbD 5, joypad.selDir := v.getLsbD 4 }

/-- `joypad_set(new)` (R950). -/
def joypadSet (new : Byte) (s : State) : State :=
  let newly := new &&& ~~~s.joypad.pressed
  let s := { s with joypad.pressed := new }
  if (newly &&& 0x0F ≠ 0 ∧ s.joypad.selDir = false) ∨ (newly >>> 4 ≠ 0 ∧ s.joypad.selAction = false) then
    request .joypad { s with cpu.stopped := false }
  else s

end Sys2Proof.Machine
end

