-- ==== Sys2Proof/Machine/Rtc.lean ====
section
/-! DEFINITION. The real-time clock of mapper variant B (25_cartridge.md R330 to R334). -/

namespace Sys2Proof.Machine

/-- RTC_DH as a byte: unstored bits read 0 (R331). -/
def RtcRegs.dh (r : RtcRegs) : Byte := bitAt 8 0 r.dayHigh ||| bitAt 8 6 r.halt ||| bitAt 8 7 r.dayCarry

/-- `rtc_read(sel)` (R331) for sel 0x08 to 0x0C. -/
def rtcRead (r : Rtc) (sel : Byte) : Byte :=
  match sel.toNat with
  | 0x08 => r.latched.s.setWidth 8
  | 0x09 => r.latched.m.setWidth 8
  | 0x0A => r.latched.h.setWidth 8
  | 0x0B => r.latched.dl
  | _ => r.latched.dh

/-- A write of one register of one copy (R333). -/
def RtcRegs.write (r : RtcRegs) (sel v : Byte) : RtcRegs :=
  match sel.toNat with
  | 0x08 => { r with s := v.extractLsb' 0 6 }
  | 0x09 => { r with m := v.extractLsb' 0 6 }
  | 0x0A => { r with h := v.extractLsb' 0 5 }
  | 0x0B => { r with dl := v }
  | _ => { r with dayHigh := v.getLsbD 0, halt := v.getLsbD 6, dayCarry := v.getLsbD 7 }

/-- `rtc_write(sel, v)` (R333): both copies, and RTC_SUB for the seconds. -/
def rtcWrite (r : Rtc) (sel v : Byte) : Rtc :=
  { live := r.live.write sel v
    latched := r.latched.write sel v
    sub := if sel = 0x08 then 0 else r.sub }

/-- `latch()` (R332). -/
def rtcLatch (r : Rtc) : Rtc := { r with latched := r.live }

/-- The day counter part of `tick()` (R334). -/
def RtcRegs.nextDay (r : RtcRegs) : RtcRegs :=
  let day := (if r.dayHigh then 256 else 0) + r.dl.toNat + 1
  if day = 512 then { r with dl := 0, dayHigh := false, dayCarry := true }
  else { r with dl := BitVec.ofNat 8 day, dayHigh := decide (day ≥ 256) }

/-- `tick()` (R334). -/
def RtcRegs.tick (r : RtcRegs) : RtcRegs :=
  let r := { r with s := r.s + 1 }
  if r.s ≠ 60 then r
  else
    let r := { r with s := 0, m := r.m + 1 }
    if r.m ≠ 60 then r
    else
      let r := { r with m := 0, h := r.h + 1 }
      if r.h ≠ 24 then r else RtcRegs.nextDay { r with h := 0 }

/-- `rtc_advance(d)` (R334): the loop takes RTC_TICK_CYCLES from RTC_SUB and ticks while it can, so it ticks once
for every whole RTC_TICK_CYCLES in the sum and leaves the rest (log 15). -/
def rtcAdvance (d : Nat) (r : Rtc) : Rtc :=
  if r.live.halt then r
  else
    { r with
      live := repeatN RtcRegs.tick ((r.sub + d) / Config.rtcTickCycles) r.live
      sub := (r.sub + d) % Config.rtcTickCycles }

end Sys2Proof.Machine
end

