-- ==== Sys2Proof/Machine/Mapper.lean ====
section
/-! DEFINITION. The cartridge mapper (25_cartridge.md R305 to R327): which byte of the image or of the cartridge RAM
an address shows, and what a write to its control windows does. -/

namespace Sys2Proof.Machine

/-! ## Construction values (R310) -/

/-- The clock at construction: all 0 (R330). -/
def RtcRegs.initial : RtcRegs :=
  { s := 0, m := 0, h := 0, dl := 0, dayHigh := false, halt := false, dayCarry := false }

def VariantA.initial : VariantA := { ramEn := false, bank1 := 1, bank2 := 0, mode := false }

def VariantB.initial : VariantB :=
  { ramEn := false, romb := 1, sel := 0x00, latchPrev := 0xFF
    rtc := { live := RtcRegs.initial, latched := RtcRegs.initial, sub := 0 } }

/-! ## ROM -/

/-- The ROM bank shown at 0x0000-0x3FFF before masking: `bankA0` of R316; bank 0 in the other variants (R311,
R326). -/
def Mapper.lowBank : Mapper → Nat
  | .noMapper => 0
  | .variantA r => if r.mode then r.bank2.toNat * 32 else 0
  | .variantB _ => 0

/-- The ROM bank shown at 0x4000-0x7FFF before masking: `bankAX` of R317, ROMB of R326; a no-mapper image shows its
second half (R311). -/
def Mapper.highBank : Mapper → Nat
  | .noMapper => 1
  | .variantA r => r.bank2.toNat * 32 + r.bank1.toNat
  | .variantB r => r.romb.toNat

/-- The place of the image byte at address a of 0x0000-0x7FFF (R305, R320). -/
def romCell (m : Mapper) (cart : Cart) (a : Word) : Nat :=
  if a.toNat ≤ 0x3FFF then romBase + (m.lowBank % cart.romBanks) * 16384 + a.toNat
  else romBase + (m.highBank % cart.romBanks) * 16384 + (a.toNat - 0x4000)

/-! ## The window 0xA000-0xBFFF -/

/-- What the window shows. -/
inductive CartWindow where
  /-- Nothing: reads 0xFF, writes ignored (R208, R311). -/
  | none
  /-- A byte of cartridge RAM, by its place. -/
  | ram (k : Nat)
  /-- The clock register `sel`, 0x08 to 0x0C (R327). -/
  | rtc (sel : Byte)
  deriving DecidableEq, Repr

/-- The bytes of cartridge RAM a machine has (R170, R303). A no-mapper image has none (R311), whatever its RAM_SIZE
says: R303 computes RAM_BYTES from RAM_SIZE alone and R304 accepts such an image; the model follows R311
(DESIGN CHOICE, log 21). -/
def Mapper.ramBytes (m : Mapper) (cart : Cart) : Nat :=
  match m with
  | .noMapper => 0
  | .variantA _ => cart.ramBytes
  | .variantB _ => cart.ramBytes

/-- The place of byte a of RAM bank r (R305, R318, R327). -/
def cramCell (cart : Cart) (bank : Nat) (a : Word) : Nat :=
  cramBase + ((bank % cart.ramBanks) * 8192 + (a.toNat - 0xA000)) % cart.ramBytes

/-- What address a of 0xA000-0xBFFF shows (R311, R318, R327). -/
def cartWindow (m : Mapper) (cart : Cart) (a : Word) : CartWindow :=
  match m with
  | .noMapper => .none
  | .variantA r =>
    if r.ramEn = false ∨ cart.ramBanks = 0 then .none
    else .ram (cramCell cart (if r.mode then r.bank2.toNat else 0) a)
  | .variantB r =>
    if r.ramEn = false then .none
    else if r.sel.toNat ≤ 0x07 then
      if cart.ramBanks = 0 then .none else .ram (cramCell cart r.sel.toNat a)
    else if r.sel.toNat ≤ 0x0C then .rtc r.sel
    else .none

/-- A read of the clock through the window (R331). -/
def Mapper.rtcRead : Mapper → Byte → Byte
  | .variantB r, sel => Machine.rtcRead r.rtc sel
  | _, _ => 0xFF

/-- A write of the clock through the window (R333). -/
def Mapper.rtcWrite : Mapper → Byte → Byte → Mapper
  | .variantB r, sel, v => .variantB { r with rtc := Machine.rtcWrite r.rtc sel v }
  | m, _, _ => m

/-! ## Control writes -/

/-- Variant A's control windows (R312 to R315, R321). -/
def VariantA.control (r : VariantA) (a : Word) (v : Byte) : VariantA :=
  if a.toNat ≤ 0x1FFF then { r with ramEn := decide (v.toNat % 16 = 0xA) }
  else if a.toNat ≤ 0x3FFF then
    { r with bank1 := if v.extractLsb' 0 5 = 0 then 1 else v.extractLsb' 0 5 }
  else if a.toNat ≤ 0x5FFF then { r with bank2 := v.extractLsb' 0 2 }
  else { r with mode := v.getLsbD 0 }

/-- Variant B's control windows (R321 to R325). -/
def VariantB.control (r : VariantB) (a : Word) (v : Byte) : VariantB :=
  if a.toNat ≤ 0x1FFF then { r with ramEn := decide (v = 0x0A) }
  else if a.toNat ≤ 0x3FFF then
    { r with romb := if v.extractLsb' 0 7 = 0 then 1 else v.extractLsb' 0 7 }
  else if a.toNat ≤ 0x5FFF then { r with sel := v }
  else
    { r with
      rtc := if r.latchPrev = 0x00 ∧ v = 0x01 then rtcLatch r.rtc else r.rtc
      latchPrev := v }

/-- `mapper_write(a, v)` for a in 0x0000-0x7FFF (R206, R321). -/
def Mapper.control (m : Mapper) (a : Word) (v : Byte) : Mapper :=
  match m with
  | .noMapper => .noMapper
  | .variantA r => .variantA (r.control a v)
  | .variantB r => .variantB (r.control a v)

/-- The clock's part of a machine step: it exists in every variant-B machine (R234, R330). -/
def Mapper.advance (d : Nat) : Mapper → Mapper
  | .variantB r => .variantB { r with rtc := rtcAdvance d r.rtc }
  | m => m

end Sys2Proof.Machine
end

