-- ==== Sys2Proof/Machine/PpuPort.lean ====
section
/-! DEFINITION. What the rest of the machine sees of the picture engine: its mode, LY and STAT, the write of LCDC,
and which memory it owns (10_state.md R130, R131, R134; 65_ppu.md R1010; 20_memory.md R220). -/

namespace Sys2Proof.Machine

/-- LCDC.LCD_ON. -/
def Ppu.lcdOn (p : Ppu) : Bool := p.lcdc.getLsbD 7

/-- The mode's number in STAT (R1001). -/
def PpuMode.number : PpuMode → Byte
  | .hblank => 0 | .vblank => 1 | .oamScan => 2 | .drawing => 3

/-- The read value of LY (R134): 0 while the LCD is off. -/
def Ppu.ly (p : Ppu) : Byte := if p.lcdOn then BitVec.ofNat 8 p.line else 0

/-- The read value of STAT (R131): the mode field is 0 while the LCD is off. -/
def Ppu.readStat (p : Ppu) : Byte :=
  0x80 ||| (p.stat.setWidth 8 <<< 3) ||| bitAt 8 2 (decide (p.ly = p.lyc))
    ||| (if p.lcdOn then p.mode.number else 0)

/-- A write of v to LCDC (R130, R1010). -/
def Ppu.writeLcdc (p : Ppu) (v : Byte) : Ppu :=
  let q := { p with lcdc := v }
  if p.lcdOn && !q.lcdOn then { q with line := 0, dot := 0, mode := .hblank }
  else if !p.lcdOn && q.lcdOn then
    { q with line := 0, dot := 0, mode := .oamScan, winLine := 0, winSeen := false }
  else q

/-- The memories the picture engine can own (R220). -/
inductive Owned where
  | vram | oam | palette
  deriving DecidableEq, Repr

/-- `ppu_owns` (R220). -/
def ppuOwns (s : State) (x : Owned) : Bool :=
  s.params.vramBlocking && s.ppu.lcdOn &&
    match x, s.ppu.mode with
    | .vram, .drawing => true
    | .palette, .drawing => true
    | .oam, .oamScan => true
    | .oam, .drawing => true
    | _, _ => false

end Sys2Proof.Machine
end

