-- ==== Sys2Proof/Machine/Serial.lean ====
section
/-! DEFINITION. The serial port (60_exceptions.md R970; 10_state.md R122, R123). -/

namespace Sys2Proof.Machine

/-- SERIAL_IN(k) (R19; log 9). -/
def serialIn (p : Params) (k : Nat) : Byte :=
  match p.serialIn with
  | .listed first rest => first.getD k rest
  | .partner id => Config.serialIn id k

/-- The read value of SC (R123). -/
def readSc (s : State) : Byte :=
  match s.params.mode with
  | .monochrome => 0x7E ||| bitAt 8 7 s.serial.start ||| bitAt 8 0 s.serial.internal
  | .color => 0x7C ||| bitAt 8 7 s.serial.start ||| bitAt 8 1 s.serial.fast ||| bitAt 8 0 s.serial.internal

/-- A write of v to SC: the fields of R123, FAST in color mode only, then `sc_write` of R970. -/
def writeSc (v : Byte) (s : State) : State :=
  let fast := match s.params.mode with
    | .monochrome => s.serial.fast
    | .color => v.getLsbD 1
  let s := { s with serial.start := v.getLsbD 7, serial.fast := fast, serial.internal := v.getLsbD 0 }
  if s.serial.start && s.serial.internal then
    if s.serial.bits = 0 then { s with serial.bits := 8, serial.clk := 0 } else s
  else { s with serial.bits := 0 }

/-- The cycles of one bit (R970). -/
def serialPeriod (s : State) : Nat :=
  match s.params.mode with
  | .monochrome => 512
  | .color => if s.serial.fast then 16 else 512

/-- One pass of the loop of `serial_advance` (R970). -/
def serialShift (s : State) : State :=
  let bit := (serialIn s.params s.serial.count).getLsbD (s.serial.bits - 1)
  let s := { s with
    serial.clk := s.serial.clk - serialPeriod s
    serial.sb := (s.serial.sb <<< 1) ||| bitAt 8 0 bit
    serial.bits := s.serial.bits - 1 }
  if s.serial.bits = 0 then
    request .serial { s with serial.start := false, serial.count := s.serial.count + 1, serial.clk := 0 }
  else s

/-- The loop of `serial_advance`. Every pass takes one from SER_BITS, so `n` passes are enough when SER_BITS is at
most `n` (log 15). -/
def serialLoop : Nat → State → State
  | 0, s => s
  | n + 1, s =>
    if s.serial.bits > 0 ∧ s.serial.clk ≥ serialPeriod s then serialLoop n (serialShift s) else s

/-- `serial_advance(c)` (R970). -/
def serialAdvance (c : Nat) (s : State) : State :=
  if s.serial.bits = 0 then s
  else
    let s := { s with serial.clk := s.serial.clk + c }
    serialLoop s.serial.bits s

end Sys2Proof.Machine
end

