-- ==== Sys2Proof/Machine/Timer.lean ====
section
/-! DEFINITION. The timer (60_exceptions.md R940 to R942). -/

namespace Sys2Proof.Machine

/-- `tbit(rate)` (R941). -/
def timerBit (rate : BitVec 2) : Nat :=
  match rate.toNat with
  | 0 => 9 | 1 => 3 | 2 => 5
  | _ => 7

/-- `signal()` (R941). -/
def Timer.signal (t : Timer) : Bool := t.tac.getLsbD 2 && t.div16.getLsbD (timerBit (t.tac.extractLsb' 0 2))

/-- `tima_inc()` (R941). -/
def timaInc (s : State) : State :=
  if s.timer.tima = 0xFF then request .timer { s with timer.tima := s.timer.tma }
  else { s with timer.tima := s.timer.tima + 1 }

/-- One cycle of `timer_advance` (R941). -/
def timerTick (s : State) : State :=
  let old := s.timer.signal
  let s := { s with timer.div16 := s.timer.div16 + 1 }
  if old && !s.timer.signal then timaInc s else s

/-- `timer_advance(c)` (R941). -/
def timerAdvance (c : Nat) (s : State) : State := repeatN timerTick c s

/-- `reset_divider()` (R942). -/
def resetDivider (s : State) : State :=
  let old := s.timer.signal
  let s := { s with timer.div16 := 0 }
  if old then timaInc s else s

/-- A write of v to TAC (R127, R942). -/
def writeTac (v : Byte) (s : State) : State :=
  let old := s.timer.signal
  let s := { s with timer.tac := v.extractLsb' 0 3 }
  if old && !s.timer.signal then timaInc s else s

end Sys2Proof.Machine
end

