-- ==== Sys2Proof/Machine/Bus.lean ====
section
/-! DEFINITION. The memory dispatcher (20_memory.md): what each of the 65536 addresses selects, the I/O register
file (10_state.md R120 to R161), `MemRead`, `MemWrite`, and the two DMA engines. -/

namespace Sys2Proof.Machine

/-! ## The I/O register file -/

/-- The registers of R120. -/
inductive IoReg where
  | p1 | sb | sc | div | tima | tma | tac | iflag | audio
  | lcdc | stat | scy | scx | ly | lyc | dma | bgp | obp0 | obp1 | wy | wx
  | boot
  | key1 | vbk | hdma1 | hdma2 | hdma3 | hdma4 | hdma5 | bcps | bcpd | ocps | ocpd | svbk
  | unmapped
  deriving DecidableEq, Repr

/-- The registers that exist in color mode only (R150 to R161). -/
def IoReg.colorOnly : IoReg → Bool
  | .key1 | .vbk | .hdma1 | .hdma2 | .hdma3 | .hdma4 | .hdma5 | .bcps | .bcpd | .ocps | .ocpd | .svbk => true
  | _ => false

/-- The map of R120 in color mode, by the low byte of the address. -/
def ioRegColor (n : Nat) : IoReg :=
  match n with
  | 0x00 => .p1 | 0x01 => .sb | 0x02 => .sc | 0x04 => .div | 0x05 => .tima | 0x06 => .tma | 0x07 => .tac
  | 0x0F => .iflag
  | 0x40 => .lcdc | 0x41 => .stat | 0x42 => .scy | 0x43 => .scx | 0x44 => .ly | 0x45 => .lyc | 0x46 => .dma
  | 0x47 => .bgp | 0x48 => .obp0 | 0x49 => .obp1 | 0x4A => .wy | 0x4B => .wx
  | 0x4D => .key1 | 0x4F => .vbk | 0x50 => .boot
  | 0x51 => .hdma1 | 0x52 => .hdma2 | 0x53 => .hdma3 | 0x54 => .hdma4 | 0x55 => .hdma5
  | 0x68 => .bcps | 0x69 => .bcpd | 0x6A => .ocps | 0x6B => .ocpd
  | 0x70 => .svbk
  | _ => if 0x10 ≤ n ∧ n ≤ 0x3F then .audio else .unmapped

/-- The register at an I/O address (R120): in monochrome mode the color-mode registers are unmapped (R144). -/
def ioReg (mode : HwMode) (a : Word) : IoReg :=
  let r := ioRegColor (a.toNat % 256)
  match mode with
  | .color => r
  | .monochrome => if r.colorOnly then .unmapped else r

/-- AUDIO_READ by the reference choice (R20): the last byte written to the address, 0xFF if none was. The boot-skip
values are writes (R129). -/
def audioReference (log : List AudioEvent) (a : Word) : Byte :=
  match log with
  | [] => 0xFF
  | .write a' v :: rest => if a' = a then v else audioReference rest a
  | .advance _ :: rest => audioReference rest a

/-- A read of the audio window (R129). -/
def audioRead (s : State) (a : Word) : Byte :=
  match s.params.audioRead with
  | .reference => audioReference s.audio a
  | .unknownSink => Config.audioRead s.audio a

/-- The read value of BCPS or OCPS (R157, R159). -/
def PaletteIndex.toByte (p : PaletteIndex) : Byte := 0x40 ||| bitAt 8 7 p.autoInc ||| p.index.setWidth 8

/-- A write of BCPS or OCPS. -/
def PaletteIndex.ofByte (v : Byte) : PaletteIndex := { autoInc := v.getLsbD 7, index := v.extractLsb' 0 6 }

/-- The increment after a write of BCPD or OCPD (R158). -/
def PaletteIndex.bump (p : PaletteIndex) : PaletteIndex := if p.autoInc then { p with index := p.index + 1 } else p

/-- `io_read(a)` (R214): the read values of R121 to R161. `arb` says whether the arbiter of R220 stands in the
way. -/
def ioRead (arb : Bool) (s : State) (a : Word) : Byte :=
  match ioReg s.params.mode a with
  | .p1 => readP1 s.joypad
  | .sb => s.serial.sb
  | .sc => readSc s
  | .div => hiByte s.timer.div16
  | .tima => s.timer.tima
  | .tma => s.timer.tma
  | .tac => s.timer.tac.setWidth 8
  | .iflag => 0xE0 ||| s.irq.iflag.setWidth 8
  | .audio => audioRead s a
  | .lcdc => s.ppu.lcdc
  | .stat => s.ppu.readStat
  | .scy => s.ppu.scy
  | .scx => s.ppu.scx
  | .ly => s.ppu.ly
  | .lyc => s.ppu.lyc
  | .dma => s.dma
  | .bgp => s.ppu.bgp
  | .obp0 => s.ppu.obp0
  | .obp1 => s.ppu.obp1
  | .wy => s.ppu.wy
  | .wx => s.ppu.wx
  | .boot => 0xFF
  | .key1 => 0x7E ||| bitAt 8 7 s.cpu.doubleSpeed ||| bitAt 8 0 s.color.key1Armed
  | .vbk => 0xFE ||| s.color.vbk.setWidth 8
  | .hdma1 => 0xFF
  | .hdma2 => 0xFF
  | .hdma3 => 0xFF
  | .hdma4 => 0xFF
  | .hdma5 => bitAt 8 7 (!s.hdma.active) ||| s.hdma.len.setWidth 8
  | .bcps => s.color.bcps.toByte
  | .bcpd => if arb && ppuOwns s .palette then 0xFF else s.mem.read (bgPalBase + s.color.bcps.index.toNat)
  | .ocps => s.color.ocps.toByte
  | .ocpd => if arb && ppuOwns s .palette then 0xFF else s.mem.read (objPalBase + s.color.ocps.index.toNat)
  | .svbk => 0xF8 ||| s.color.svbk.setWidth 8
  | .unmapped => 0xFF

/-! ## The address map -/

/-- What an address selects: exactly one owner (R202, R203). -/
inductive Target where
  /-- BOOT_IMAGE, by its place: read-only, and writes are lost (R205, R219). -/
  | boot (k : Nat)
  /-- ROM, by its place: a write is a control write (R206). -/
  | rom (k : Nat)
  /-- A byte of RAM, by its place. -/
  | ram (k : Nat)
  /-- Nothing: unmapped, unusable, disabled or refused. Reads 0xFF, writes ignored (R213, R217, R218). -/
  | nothing
  /-- A clock register of variant B (R327). -/
  | rtc (sel : Byte)
  /-- The I/O register file (R214). -/
  | io
  /-- IE (R216). -/
  | ie
  deriving DecidableEq, Repr

/-- `boot_range(a)` (R219). -/
def bootRange (mode : HwMode) (a : Word) : Bool :=
  decide (a.toNat ≤ 0x00FF) ||
    match mode with
    | .monochrome => false
    | .color => decide (0x0200 ≤ a.toNat ∧ a.toNat ≤ 0x08FF)

/-- `vbank` of R204. -/
def vramBank (s : State) : Nat :=
  match s.params.mode with
  | .monochrome => 0
  | .color => s.color.vbk.toNat

/-- `wbank` of R210. -/
def wramBank (s : State) : Nat :=
  match s.params.mode with
  | .monochrome => 1
  | .color => if s.color.svbk = 0 then 1 else s.color.svbk.toNat

/-- The address an echo address stands for (R211); any other address stands for itself. -/
def unecho (a : Word) : Word := if 0xE000 ≤ a.toNat ∧ a.toNat ≤ 0xFDFF then a - 0x2000 else a

/-- What address a selects (R203 to R220), with the arbiter of R220 in the way if `arb`. -/
def target (arb : Bool) (s : State) (a : Word) : Target :=
  let a := unecho a
  if s.bootMapped = true ∧ bootRange s.params.mode a = true then .boot (bootBase + a.toNat)
  else if a.toNat ≤ 0x7FFF then .rom (romCell s.mapper s.cart a)
  else if a.toNat ≤ 0x9FFF then
    if arb && ppuOwns s .vram then .nothing else .ram (vramCell (vramBank s) (a.toNat - 0x8000))
  else if a.toNat ≤ 0xBFFF then
    match cartWindow s.mapper s.cart a with
    | .none => .nothing
    | .ram k => .ram k
    | .rtc sel => .rtc sel
  else if a.toNat ≤ 0xCFFF then .ram (wramCell 0 (a.toNat - 0xC000))
  else if a.toNat ≤ 0xDFFF then .ram (wramCell (wramBank s) (a.toNat - 0xD000))
  else if a.toNat ≤ 0xFE9F then
    if arb && ppuOwns s .oam then .nothing else .ram (oamBase + (a.toNat - 0xFE00))
  else if a.toNat ≤ 0xFEFF then .nothing
  else if a.toNat ≤ 0xFF7F then .io
  else if a.toNat ≤ 0xFFFE then .ram (hramBase + (a.toNat - 0xFF80))
  else .ie

/-- A read through the dispatcher. -/
def busRead (arb : Bool) (s : State) (a : Word) : Byte :=
  match target arb s a with
  | .boot k => s.mem.read k
  | .rom k => s.mem.read k
  | .ram k => s.mem.read k
  | .nothing => 0xFF
  | .rtc sel => s.mapper.rtcRead sel
  | .io => ioRead arb s a
  | .ie => s.irq.ie

/-- `MemRead(a, 1)` (R204). -/
def memRead (s : State) (a : Word) : Byte := busRead true s a

/-- `MemRead16(a)` (R34). -/
def memRead16 (s : State) (a : Word) : Word := mkWord (memRead s (a + 1)) (memRead s a)

/-- `dma_read` (R221): `MemRead` with R220 not applied. -/
def dmaRead (s : State) (a : Word) : Byte := busRead false s a

/-! ## The DMA engines -/

/-- The source page of an OAM DMA (R222). -/
def dmaPage (v : Byte) : Byte := if v.toNat ≥ 0xE0 then v - 0x20 else v

/-- The copy of an OAM DMA, byte i on (R221). -/
@[irreducible] def oamDmaFrom (base : Word) : Nat → Nat → State → State
  | _, 0, s => s
  | i, n + 1, s =>
    oamDmaFrom base (i + 1) n { s with mem := s.mem.write (oamBase + i) (dmaRead s (base + BitVec.ofNat 16 i)) }

/-- A write of v to DMA (R136, R221). -/
def writeDma (v : Byte) (s : State) : State := oamDmaFrom (mkWord (dmaPage v) 0) 0 160 { s with dma := v }

/-- The copy of an HDMA block, byte i on (R225). -/
def hdmaCopyFrom (src : Word) (dst : Nat) : Nat → Nat → State → State
  | _, 0, s => s
  | i, n + 1, s =>
    hdmaCopyFrom src dst (i + 1) n { s with mem := s.mem.write (dst + i) (dmaRead s (src + BitVec.ofNat 16 i)) }

/-- `hdma_block()` (R225). -/
def hdmaBlock (s : State) : State :=
  let dst := vramCell s.color.vbk.toNat (s.hdma.dst.toNat / 16 * 16)
  let s := hdmaCopyFrom s.hdma.src dst 0 16 s
  { s with hdma.src := s.hdma.src + 16, hdma.dst := s.hdma.dst + 16, hdma.len := s.hdma.len - 1 }

/-- A write of v to HDMA5 (R156, R223). -/
def writeHdma5 (v : Byte) (s : State) : State :=
  if s.hdma.active && !v.getLsbD 7 then { s with hdma.active := false }
  else
    let s := { s with hdma.len := v.extractLsb' 0 7 }
    if v.getLsbD 7 then { s with hdma.active := true }
    else
      let n := s.hdma.len.toNat + 1
      let s := repeatN hdmaBlock n s
      { s with
        hdma.active := false
        acct.gdmaCycles := n * Config.hdmaBlockCycles * (if s.cpu.doubleSpeed then 2 else 1) }

/-- The HBlank transfer on entry into mode 0 of a visible line (R224). -/
def hblankHdma (s : State) : State :=
  if s.hdma.active then
    let s := hdmaBlock s
    if s.hdma.len = 0x7F then { s with hdma.active := false } else s
  else s

/-! ## Writes -/

/-- A write of v to BCPD (R158). -/
def writeBcpd (v : Byte) (s : State) : State :=
  let s' := if ppuOwns s .palette then s
    else { s with mem := s.mem.write (bgPalBase + s.color.bcps.index.toNat) v }
  { s' with color.bcps := s.color.bcps.bump }

/-- A write of v to OCPD (R160). -/
def writeOcpd (v : Byte) (s : State) : State :=
  let s' := if ppuOwns s .palette then s
    else { s with mem := s.mem.write (objPalBase + s.color.ocps.index.toNat) v }
  { s' with color.ocps := s.color.ocps.bump }

/-- `io_write(a, v)` (R214): the write effects of R121 to R161. -/
def ioWrite (s : State) (a : Word) (v : Byte) : State :=
  match ioReg s.params.mode a with
  | .p1 => writeP1 v s
  | .sb => { s with serial.sb := v }
  | .sc => writeSc v s
  | .div => resetDivider s
  | .tima => { s with timer.tima := v }
  | .tma => { s with timer.tma := v }
  | .tac => writeTac v s
  | .iflag => { s with irq.iflag := v.extractLsb' 0 5 }
  | .audio => { s with audio := .write a v :: s.audio }
  | .lcdc => { s with ppu := s.ppu.writeLcdc v }
  | .stat => { s with ppu.stat := v.extractLsb' 3 4 }
  | .scy => { s with ppu.scy := v }
  | .scx => { s with ppu.scx := v }
  | .ly => s
  | .lyc => { s with ppu.lyc := v }
  | .dma => writeDma v s
  | .bgp => { s with ppu.bgp := v }
  | .obp0 => { s with ppu.obp0 := v }
  | .obp1 => { s with ppu.obp1 := v }
  | .wy => { s with ppu.wy := v }
  | .wx => { s with ppu.wx := v }
  | .boot => if v = 0 then s else { s with bootMapped := false }
  | .key1 => { s with color.key1Armed := v.getLsbD 0 }
  | .vbk => { s with color.vbk := v.extractLsb' 0 1 }
  | .hdma1 => { s with hdma.src := mkWord v (loByte s.hdma.src) }
  | .hdma2 => { s with hdma.src := mkWord (hiByte s.hdma.src) (v &&& 0xF0) }
  | .hdma3 => { s with hdma.dst := v.extractLsb' 0 5 ++ s.hdma.dst.extractLsb' 0 8 }
  | .hdma4 => { s with hdma.dst := s.hdma.dst.extractLsb' 8 5 ++ (v &&& 0xF0) }
  | .hdma5 => writeHdma5 v s
  | .bcps => { s with color.bcps := PaletteIndex.ofByte v }
  | .bcpd => writeBcpd v s
  | .ocps => { s with color.ocps := PaletteIndex.ofByte v }
  | .ocpd => writeOcpd v s
  | .svbk => { s with color.svbk := v.extractLsb' 0 3 }
  | .unmapped => s

/-- `MemWrite(a, 1, v)` (R205). -/
def memWrite (s : State) (a : Word) (v : Byte) : State :=
  match target true s a with
  | .boot _ => s
  | .rom _ => { s with mapper := s.mapper.control a v }
  | .ram k => { s with mem := s.mem.write k v }
  | .nothing => s
  | .rtc sel => { s with mapper := s.mapper.rtcWrite sel v }
  | .io => ioWrite s a v
  | .ie => { s with irq.ie := v }

/-- `MemWrite16(a, v)` (R34): the low byte first. -/
def memWrite16 (s : State) (a : Word) (v : Word) : State :=
  memWrite (memWrite s a (loByte v)) (a + 1) (hiByte v)

/-- The place of the one byte of memory that a store to address a writes, if it writes one directly: RAM that is
mapped and not refused. The writes with effects of R227 have their own operations above. -/
def storeCell (s : State) (a : Word) : Option Nat :=
  match target true s a with
  | .ram k => some k
  | _ => none

end Sys2Proof.Machine
end

