-- ==== Sys2Proof/Machine/Flags.lean ====
section
/-! DEFINITION. The arithmetic of the processor and every flag computation: 42_alu8.md R600 to R603 and R650,
43_alu16.md R700 and R705, 44_rotate_shift_bit.md R750. -/

namespace Sys2Proof.Machine

/-! ## The byte F (R102) -/

/-- F: Zf, Nf, Hf, Cf in bits 7 to 4, and 0 below. -/
def Flags.toByte (f : Flags) : Byte :=
  bitAt 8 7 f.z ||| bitAt 8 6 f.n ||| bitAt 8 5 f.h ||| bitAt 8 4 f.c

/-- `F <- v & 0xF0` (R556). -/
def Flags.ofByte (v : Byte) : Flags :=
  { z := v.getLsbD 7, n := v.getLsbD 6, h := v.getLsbD 5, c := v.getLsbD 4 }

/-! ## Sums and differences -/

/-- What `add8` and `sub8` return: the result, the carry out of bit 3 or borrow into it, and the carry or borrow out
of bit 7. -/
structure Sum8 where
  r : Byte
  h : Bool
  c : Bool
  deriving DecidableEq, Repr

/-- What `add16` and `add_sp_e` return. -/
structure Sum16 where
  r : Word
  h : Bool
  c : Bool
  deriving DecidableEq, Repr

/-- `add8(a, b, cin)` (R600). -/
def add8 (a b : Byte) (cin : Bool) : Sum8 :=
  let s := a.toNat + b.toNat + cin.toNat
  { r := BitVec.ofNat 8 s
    h := decide (a.toNat % 16 + b.toNat % 16 + cin.toNat > 0xF)
    c := decide (s > 0xFF) }

/-- `sub8(a, b, cin)` (R601). -/
def sub8 (a b : Byte) (cin : Bool) : Sum8 :=
  let d : Int := (a.toNat : Int) - (b.toNat : Int) - (cin.toNat : Int)
  { r := BitVec.ofInt 8 d
    h := decide (a.toNat % 16 < b.toNat % 16 + cin.toNat)
    c := decide (a.toNat < b.toNat + cin.toNat) }

/-- `add16(a, b)` (R705). -/
def add16 (a b : Word) : Sum16 :=
  let s := a.toNat + b.toNat
  { r := BitVec.ofNat 16 s
    h := decide (a.toNat % 0x1000 + b.toNat % 0x1000 > 0xFFF)
    c := decide (s > 0xFFFF) }

/-- `add_sp_e(sp, e)` (R700): both flags come from the unsigned addition of the low byte of sp and e. -/
def addSpByte (sp : Word) (e : Byte) : Sum16 :=
  { r := sp + sext16 e
    h := decide (sp.toNat % 16 + e.toNat % 16 > 0xF)
    c := decide (sp.toNat % 256 + e.toNat > 0xFF) }

/-! ## The accumulator operations -/

/-- The operations of the field y of R414. -/
inductive AluOp where
  | add | adc | sub | sbc | and | xor | or | cp
  deriving DecidableEq, Repr

/-- The flags of an addition (R603). -/
def addFlags (s : Sum8) : Flags := { z := decide (s.r = 0), n := false, h := s.h, c := s.c }

/-- The flags of a subtraction or compare (R603). -/
def subFlags (s : Sum8) : Flags := { z := decide (s.r = 0), n := true, h := s.h, c := s.c }

/-- The flags of AND (`half` true), XOR and OR (`half` false) (R603). -/
def logicFlags (r : Byte) (half : Bool) : Flags := { z := decide (r = 0), n := false, h := half, c := false }

/-- `alu8(y, a, b)` (R603) with the carry flag before it: the new A and the new flags. -/
def alu8 (op : AluOp) (cf : Bool) (a b : Byte) : Byte × Flags :=
  match op with
  | .add => ((add8 a b false).r, addFlags (add8 a b false))
  | .adc => ((add8 a b cf).r, addFlags (add8 a b cf))
  | .sub => ((sub8 a b false).r, subFlags (sub8 a b false))
  | .sbc => ((sub8 a b cf).r, subFlags (sub8 a b cf))
  | .and => (a &&& b, logicFlags (a &&& b) true)
  | .xor => (a ^^^ b, logicFlags (a ^^^ b) false)
  | .or => (a ||| b, logicFlags (a ||| b) false)
  | .cp => (a, subFlags (sub8 a b false))

/-- The flags of INC (R640): Cf is kept. -/
def incFlags (f : Flags) (s : Sum8) : Flags := { z := decide (s.r = 0), n := false, h := s.h, c := f.c }

/-- The flags of DEC (R642): Cf is kept. -/
def decFlags (f : Flags) (s : Sum8) : Flags := { z := decide (s.r = 0), n := true, h := s.h, c := f.c }

/-- The flags of ADD HL,dd (R701): Zf is kept. -/
def addHlFlags (f : Flags) (s : Sum16) : Flags := { z := f.z, n := false, h := s.h, c := s.c }

/-- The flags of ADD SP,e and LD HL,SP+e (R704, R554). -/
def addSpFlags (s : Sum16) : Flags := { z := false, n := false, h := s.h, c := s.c }

/-- DAA (R650): the new A and the new flags. -/
def daaResult (a : Byte) (f : Flags) : Byte × Flags :=
  if f.n = false then
    let high := f.c || decide (a.toNat > 0x99)
    let low := f.h || decide (a.toNat % 16 > 0x9)
    let r := a + (if high then 0x60 else 0x00) + (if low then 0x06 else 0x00)
    (r, { z := decide (r = 0), n := f.n, h := false, c := high })
  else
    let r := a - (if f.c then 0x60 else 0x00) - (if f.h then 0x06 else 0x00)
    (r, { z := decide (r = 0), n := f.n, h := false, c := f.c })

/-! ## Rotates and shifts -/

/-- The operations of the field y of R415. -/
inductive ShiftOp where
  | rlc | rrc | rl | rr | sla | sra | swap | srl
  deriving DecidableEq, Repr

/-- `shift(y, v)` (R750) with the carry flag before it: the result and the new carry. -/
def shift8 (op : ShiftOp) (cf : Bool) (v : Byte) : Byte × Bool :=
  let low7 : BitVec 7 := v.extractLsb' 0 7
  let high7 : BitVec 7 := v.extractLsb' 1 7
  let bit (b : Bool) : BitVec 1 := BitVec.ofBool b
  let b7 := v.getLsbD 7
  let b0 := v.getLsbD 0
  match op with
  | .rlc => (low7 ++ bit b7, b7)
  | .rrc => (bit b0 ++ high7, b0)
  | .rl => (low7 ++ bit cf, b7)
  | .rr => (bit cf ++ high7, b0)
  | .sla => (low7 ++ bit false, b7)
  | .sra => (bit b7 ++ high7, b0)
  | .swap => (v.extractLsb' 0 4 ++ v.extractLsb' 4 4, false)
  | .srl => (bit false ++ high7, b0)

/-- The flags of the CB rotates and shifts (R760 to R775). -/
def shiftFlags (r : Byte) (c : Bool) : Flags := { z := decide (r = 0), n := false, h := false, c := c }

/-- The flags of RLCA, RRCA, RLA and RRA (R751 to R754): Zf is always cleared. -/
def accShiftFlags (c : Bool) : Flags := { z := false, n := false, h := false, c := c }

/-- The flags of BIT (R780): Cf is kept. -/
def bitFlags (f : Flags) (v : Byte) (b : BitVec 3) : Flags :=
  { z := !(v.getLsbD b.toNat), n := false, h := true, c := f.c }

/-- `v & ~(1 << b)` (R782). -/
def clearBit (v : Byte) (b : BitVec 3) : Byte := v &&& ~~~((1 : Byte) <<< b.toNat)

/-- `v | (1 << b)` (R784). -/
def setBit (v : Byte) (b : BitVec 3) : Byte := v ||| ((1 : Byte) <<< b.toNat)

end Sys2Proof.Machine
end

