-- ==== Sys2Proof/Machine/Operands.lean ====
section
/-! DEFINITION. The register operands of the processor (30_encoding.md R410 to R413; 10_state.md R101): reading and
writing a register or a pair, and the conditions. The memory operands are read and written in Machine/Ops.lean. -/

namespace Sys2Proof.Machine

/-- `R8[r]`. -/
def Cpu.getR8 (x : Cpu) : Reg8 → Byte
  | .b => x.b | .c => x.c | .d => x.d | .e => x.e | .h => x.h | .l => x.l | .a => x.a

/-- `R8[r] <- v`. -/
def Cpu.setR8 (x : Cpu) (r : Reg8) (v : Byte) : Cpu :=
  match r with
  | .b => { x with b := v }
  | .c => { x with c := v }
  | .d => { x with d := v }
  | .e => { x with e := v }
  | .h => { x with h := v }
  | .l => { x with l := v }
  | .a => { x with a := v }

/-- The pairs of R101: the first-named register is the high byte. -/
def Cpu.bc (x : Cpu) : Word := mkWord x.b x.c
def Cpu.de (x : Cpu) : Word := mkWord x.d x.e
def Cpu.hl (x : Cpu) : Word := mkWord x.h x.l
def Cpu.af (x : Cpu) : Word := mkWord x.a x.f.toByte

/-- A write of a pair writes both halves (R33, R101). -/
def Cpu.setBc (x : Cpu) (v : Word) : Cpu := { x with b := hiByte v, c := loByte v }
def Cpu.setDe (x : Cpu) (v : Word) : Cpu := { x with d := hiByte v, e := loByte v }
def Cpu.setHl (x : Cpu) (v : Word) : Cpu := { x with h := hiByte v, l := loByte v }
/-- `A <- v[15:8]; F <- v[7:0] & 0xF0` (R556). -/
def Cpu.setAf (x : Cpu) (v : Word) : Cpu := { x with a := hiByte v, f := Flags.ofByte (loByte v) }

/-- `R16[dd]`. -/
def Cpu.getPair (x : Cpu) : Pair → Word
  | .bc => x.bc | .de => x.de | .hl => x.hl | .sp => x.sp

/-- `R16[dd] <- v`. -/
def Cpu.setPair (x : Cpu) (dd : Pair) (v : Word) : Cpu :=
  match dd with
  | .bc => x.setBc v
  | .de => x.setDe v
  | .hl => x.setHl v
  | .sp => { x with sp := v }

/-- `R16S[qq]`. -/
def Cpu.getStackPair (x : Cpu) : StackPair → Word
  | .bc => x.bc | .de => x.de | .hl => x.hl | .af => x.af

/-- `R16S[qq] <- v`. -/
def Cpu.setStackPair (x : Cpu) (qq : StackPair) (v : Word) : Cpu :=
  match qq with
  | .bc => x.setBc v
  | .de => x.setDe v
  | .hl => x.setHl v
  | .af => x.setAf v

/-- `cond(cc)` (R413). -/
def Flags.cond (f : Flags) : Cond → Bool
  | .nz => !f.z | .z => f.z | .nc => !f.c | .c => f.c

/-- The high-page address 0xFF00 + n (R424, R520). -/
def highPage (n : Byte) : Word := 0xFF00 + zext16 n

end Sys2Proof.Machine
end

