-- ==== Sys2Proof/Machine/Ops.lean ====
section
/-! DEFINITION. The named operations of the processor: fetch, the stack, memory operands, interrupt entry and the
return from it, the wait states, and the ends of a step (00_scope.md R35, R36; 46_system.md R856 to R860;
60_exceptions.md R910, R960). -/

namespace Sys2Proof.Machine

/-! ## Ends of an instruction -/

/-- `cycles <- n` at the end of an instruction or of an idle step (R36). -/
def done (n : Nat) (s : State) : Result := .next { s with acct.cycles := n }

/-! ## Fetch (R35, R859) -/

/-- The three bytes an instruction at PC may need. While HALT_BUG_PENDING is 1 the opcode fetch does not advance PC,
so the byte at PC is read again as the next byte (R859). Reads have no effect (R227), so reading all three before
decoding is the sequential fetch of R35 (log 6). -/
def fetchWindow (s : State) : Byte × Byte × Byte :=
  let pc := s.cpu.pc
  if s.cpu.haltBugPending then (memRead s pc, memRead s pc, memRead s (pc + 1))
  else (memRead s pc, memRead s (pc + 1), memRead s (pc + 2))

/-- The instruction at PC (R430, R431, R434). -/
def fetched (s : State) : Instr :=
  match fetchWindow s with
  | (op, b1, b2) => decode3 op b1 b2

/-- How far fetching an instruction of n bytes moves PC (R859). -/
def pcAdvance (s : State) (n : Nat) : Nat := if s.cpu.haltBugPending then n - 1 else n

/-- PC past the instruction's bytes, and HALT_BUG_PENDING cleared (R500, R859). -/
def afterFetch (i : Instr) (s : State) : State :=
  { s with cpu.pc := s.cpu.pc + BitVec.ofNat 16 (pcAdvance s i.length), cpu.haltBugPending := false }

/-- The delay of EI at the end of an instruction (R856): `delay` is IME_DELAY when the step began. -/
def eiDelay (delay : Bool) (s : State) : State :=
  if delay && s.cpu.imeDelay then { s with cpu.ime := true, cpu.imeDelay := false } else s

/-! ## The stack (R35, R549) -/

/-- `push16(v)`: the high byte at SP - 1 first, then the low byte at SP - 2. -/
def push16 (v : Word) (s : State) : State :=
  let s := { s with cpu.sp := s.cpu.sp - 1 }
  let s := memWrite s s.cpu.sp (hiByte v)
  let s := { s with cpu.sp := s.cpu.sp - 1 }
  memWrite s s.cpu.sp (loByte v)

/-- The value `pop16()` returns. -/
def stackTop (s : State) : Word := mkWord (memRead s (s.cpu.sp + 1)) (memRead s s.cpu.sp)

/-- SP after `pop16()`. Reads have no effect (R227), so the value and SP are taken separately. -/
def dropTop (s : State) : State := { s with cpu.sp := s.cpu.sp + 2 }

/-! ## Memory operands (R520) -/

/-- The byte at HL. -/
def readHl (s : State) : Byte := memRead s s.cpu.hl

/-- `MemWrite(HL, 1, v)`. -/
def writeHl (v : Byte) (s : State) : State := memWrite s s.cpu.hl v

/-! ## Register updates -/

def setPc (v : Word) (s : State) : State := { s with cpu.pc := v }
def setA (v : Byte) (s : State) : State := { s with cpu.a := v }
def setFlags (f : Flags) (s : State) : State := { s with cpu.f := f }
def setR8 (r : Reg8) (v : Byte) (s : State) : State := { s with cpu := s.cpu.setR8 r v }
def setPair (dd : Pair) (v : Word) (s : State) : State := { s with cpu := s.cpu.setPair dd v }
def setStackPair (qq : StackPair) (v : Word) (s : State) : State := { s with cpu := s.cpu.setStackPair qq v }
def setHl (v : Word) (s : State) : State := { s with cpu := s.cpu.setHl v }
def setSp (v : Word) (s : State) : State := { s with cpu.sp := v }

/-- `(A, F) <- alu8(y, A, b)` (R603). -/
def aluA (op : AluOp) (b : Byte) (s : State) : State :=
  let r := alu8 op s.cpu.f.c s.cpu.a b
  setFlags r.2 (setA r.1 s)

/-- `(x, c) <- shift(y, R8[r]); R8[r] <- x` and the flags (R760). -/
def shiftR (op : ShiftOp) (r : Reg8) (s : State) : State :=
  let x := shift8 op s.cpu.f.c (s.cpu.getR8 r)
  setFlags (shiftFlags x.1 x.2) (setR8 r x.1 s)

/-- The same on the byte at HL: read, write, flags (R761). -/
def shiftHl (op : ShiftOp) (s : State) : State :=
  let x := shift8 op s.cpu.f.c (readHl s)
  setFlags (shiftFlags x.1 x.2) (writeHl x.1 s)

/-- The accumulator rotates (R751). -/
def shiftA (op : ShiftOp) (s : State) : State :=
  let x := shift8 op s.cpu.f.c s.cpu.a
  setFlags (accShiftFlags x.2) (setA x.1 s)

/-! ## Control transfer (R811) -/

/-- `push16(PC); PC <- target`. -/
def call (target : Word) (s : State) : State := setPc target (push16 s.cpu.pc s)

/-- `PC <- pop16()`. -/
def returnPc (s : State) : State := setPc (stackTop s) (dropTop s)

/-- `PC <- (PC + sext_16(e)) mod 2^16` (R423, R803). -/
def jumpRelative (e : Byte) (s : State) : State := setPc (s.cpu.pc + sext16 e) s

/-! ## Interrupt entry and return -/

/-- The address an interrupt entry saves (R910). -/
def serviceReturn (s : State) : Word := if s.cpu.haltBugPending then s.cpu.pc - 1 else s.cpu.pc

/-- `service()` (R910) for the chosen source k: IF[k], IME and IME_DELAY are cleared, the return address is pushed,
and PC becomes the vector. -/
def enterInterrupt (k : Source) (s : State) : State :=
  let ret := serviceReturn s
  let s := clearPending k s
  let s := { s with cpu.ime := false, cpu.imeDelay := false, cpu.haltBugPending := false }
  setPc k.vector (push16 ret s)

/-- The step that takes an interrupt (R860, R910). The source is chosen before any write; `none` cannot be reached,
since the step looks for a pending interrupt first. -/
def service (s : State) : Result :=
  match firstPending s with
  | some k => done Config.serviceCycles (enterInterrupt k s)
  | none => done Config.serviceCycles s

/-- The return from an interrupt (R809, R914): `PC <- pop16(); IME <- 1` at once; IME_DELAY is kept. -/
def returnFromInterrupt (s : State) : State :=
  let s := returnPc s
  { s with cpu.ime := true }

/-! ## Wait states, lock and speed switch -/

/-- `raise Lock(op)` (R858). -/
def lock (op : Byte) (s : State) : State := { s with cpu.locked := true, cpu.lockOpcode := op }

/-- The effect of HALT (R852). -/
def halt (s : State) : State :=
  if s.params.haltBug && !s.cpu.ime && decide (pending s ≠ 0) then { s with cpu.haltBugPending := true }
  else { s with cpu.halted := true }

/-- `speed_switch()` (R960). -/
def speedSwitch (s : State) : State :=
  resetDivider { s with cpu.doubleSpeed := !s.cpu.doubleSpeed, color.key1Armed := false }

/-- Whether STOP switches the speed (R853). -/
def stopSwitches (s : State) : Bool := decide (s.params.mode = .color) && s.color.key1Armed

/-- `stop` when it does not switch the speed (R853). -/
def stopCpu (s : State) : State :=
  let s := resetDivider s
  { s with cpu.stopped := true }

/-! ## The start of a step (R860) -/

/-- `cycles` and `gdma_cycles` are cleared at the start of every step. -/
def beginStep (s : State) : State := { s with acct := { cycles := 0, gdmaCycles := 0, normalCycles := 0 } }

/-- Which of the things a step can do it does (R860). -/
inductive StepKind where
  | locked
  | stopped
  | haltIdle
  | service
  | execute
  deriving DecidableEq, Repr

/-- The choice of `cpu_step()` (R860), in its order. -/
def stepKind (s : State) : StepKind :=
  if s.cpu.locked then .locked
  else if s.cpu.stopped then .stopped
  else if s.cpu.halted ∧ pending s = 0 then .haltIdle
  else if s.cpu.ime ∧ pending s ≠ 0 then .service
  else .execute

/-- `HALTED <- 0`: the wake (R860, R912). -/
def wake (s : State) : State := { s with cpu.halted := false }

/-! ## Placing bytes for the next fetch -/

/-- The places of memory behind a byte that can be fetched, if it is memory at all. -/
def fetchCell (s : State) (a : Word) : Option Nat :=
  match target true s a with
  | .boot k => some k
  | .rom k => some k
  | .ram k => some k
  | _ => none

/-- Stores bytes where the fetches from address a on read them. -/
def placeBytes (a : Word) : List Byte → State → State
  | [], s => s
  | v :: rest, s =>
    match fetchCell s a with
    | some k => placeBytes (a + 1) rest { s with mem := s.mem.write k v }
    | none => placeBytes (a + 1) rest s

/-- PC where the three bytes at PC are memory; otherwise the start of working memory, which always is (log 2). -/
def fetchablePc (s : State) : Word :=
  let pc := s.cpu.pc
  if (fetchCell s pc).isSome && (fetchCell s (pc + 1)).isSome && (fetchCell s (pc + 2)).isSome then pc else 0xC000

/-- The processor made ready to fetch in its next step: running, and with no interrupt entry due (log 2). -/
def readyToFetch (s : State) : State :=
  { s with
    cpu.pc := fetchablePc s
    cpu.locked := false
    cpu.stopped := false
    cpu.halted := false
    cpu.haltBugPending := false
    cpu.ime := s.cpu.ime && decide (pending s = 0) }

end Sys2Proof.Machine
end

