-- ==== Sys2Proof/Machine/Render.lean ====
section
/-! DEFINITION. The compositor (65_ppu.md R1030 to R1052): the 160 colours of one visible line, from the registers,
video memory, sprite memory and palettes as they are at that moment. It reads the memories directly, never through
the arbiter. -/

namespace Sys2Proof.Machine

/-- A byte of VRAM by bank and offset from 0x8000. -/
def vramByte (s : State) (bank offset : Nat) : Byte := s.mem.read (vramCell bank offset)

/-- A bit of a byte as the number 0 or 1. -/
def bitNat (v : Byte) (i : Nat) : Nat := (v.getLsbD i).toNat

/-! ## Background and window (R1031, R1032) -/

/-- A pixel of a tile layer: the colour index and the attribute byte (R1031). -/
structure TilePixel where
  index : Nat
  attr : Byte
  deriving DecidableEq, Repr

/-- Fields of a map attribute byte (R172). -/
def attrPriority (attr : Byte) : Bool := attr.getLsbD 7
def attrYFlip (attr : Byte) : Bool := attr.getLsbD 6
def attrXFlip (attr : Byte) : Bool := attr.getLsbD 5
def attrBank (attr : Byte) : Nat := bitNat attr 3
def attrPalette (attr : Byte) : Nat := attr.toNat % 8

/-- The offset of a background or window tile's data (R1031). -/
def tileBase (p : Ppu) (t : Byte) : Nat :=
  if p.lcdc.getLsbD 4 then 16 * t.toNat else (0x1000 + 16 * signed t).toNat

/-- `tile_pixel(map, col, row, x8, y8)` (R1031); `map` is the offset of the tile map from 0x8000. -/
def tilePixel (s : State) (map col row x8 y8 : Nat) : TilePixel :=
  let off := map + 32 * row + col
  let t := vramByte s 0 off
  let attr := match s.params.mode with
    | .monochrome => 0
    | .color => vramByte s 1 off
  let y := if attrYFlip attr then 7 - y8 else y8
  let x := if attrXFlip attr then 7 - x8 else x8
  let base := tileBase s.ppu t
  let lo := vramByte s (attrBank attr) (base + 2 * y)
  let hi := vramByte s (attrBank attr) (base + 2 * y + 1)
  { index := bitNat hi (7 - x) * 2 + bitNat lo (7 - x), attr := attr }

/-- `bg_enabled` of R1032. -/
def bgEnabled (s : State) : Bool :=
  match s.params.mode with
  | .color => true
  | .monochrome => s.ppu.lcdc.getLsbD 0

/-- Whether the window supplies the pixel at column x (R1032). -/
def windowAt (s : State) (x : Nat) : Bool :=
  bgEnabled s && s.ppu.lcdc.getLsbD 5 && s.ppu.winSeen &&
    decide (s.ppu.wx.toNat ≤ 166) && decide (x + 7 ≥ s.ppu.wx.toNat)

/-- The offset of a tile map: 0x9800 or 0x9C00 (R130). -/
def mapOffset (high : Bool) : Nat := if high then 0x1C00 else 0x1800

/-- The background or window pixel at column x of line L (R1032). -/
def bgPixel (s : State) (line x : Nat) : TilePixel :=
  if windowAt s x then
    let wx := x + 7 - s.ppu.wx.toNat
    let wy := s.ppu.winLine.toNat
    tilePixel s (mapOffset (s.ppu.lcdc.getLsbD 6)) (wx / 8) (wy / 8) (wx % 8) (wy % 8)
  else if bgEnabled s then
    let px := (s.ppu.scx.toNat + x) % 256
    let py := (s.ppu.scy.toNat + line) % 256
    tilePixel s (mapOffset (s.ppu.lcdc.getLsbD 3)) (px / 8) (py / 8) (px % 8) (py % 8)
  else { index := 0, attr := 0 }

/-! ## Sprites (R1033, R1034) -/

/-- An entry of OAM (R171). -/
structure Sprite where
  y : Byte
  x : Byte
  tile : Byte
  attr : Byte
  deriving DecidableEq, Repr

/-- Fields of a sprite's attribute byte (R171). -/
def Sprite.behindBg (p : Sprite) : Bool := p.attr.getLsbD 7
def Sprite.yFlip (p : Sprite) : Bool := p.attr.getLsbD 6
def Sprite.xFlip (p : Sprite) : Bool := p.attr.getLsbD 5
def Sprite.dmgPal (p : Sprite) : Bool := p.attr.getLsbD 4
def Sprite.bank (p : Sprite) : Nat := bitNat p.attr 3
def Sprite.cgbPal (p : Sprite) : Nat := p.attr.toNat % 8

/-- Entry i of OAM. -/
def spriteAt (s : State) (i : Nat) : Sprite :=
  { y := s.mem.read (oamBase + 4 * i), x := s.mem.read (oamBase + 4 * i + 1)
    tile := s.mem.read (oamBase + 4 * i + 2), attr := s.mem.read (oamBase + 4 * i + 3) }

/-- The sprite height h (R1033). -/
def spriteHeight (p : Ppu) : Nat := if p.lcdc.getLsbD 2 then 16 else 8

/-- The sprites of line L: the first ten entries in OAM order that cover it (R1033). -/
def lineSprites (s : State) (line : Nat) : List Sprite :=
  (((List.range 40).map (spriteAt s)).filter fun p =>
    decide (p.y.toNat ≤ line + 16 ∧ line + 16 < p.y.toNat + spriteHeight s.ppu)).take 10

/-- The colour index of sprite p at column x of line L (R1034): 0, transparent, outside its eight columns. -/
def spriteIndex (s : State) (line : Nat) (p : Sprite) (x : Nat) : Nat :=
  if p.x.toNat ≤ x + 8 ∧ x < p.x.toNat then
    let h := spriteHeight s.ppu
    let row := if p.yFlip then h - 1 - (line + 16 - p.y.toNat) else line + 16 - p.y.toNat
    let col := if p.xFlip then 7 - (x + 8 - p.x.toNat) else x + 8 - p.x.toNat
    let t := if h = 16 then p.tile &&& 0xFE else p.tile
    let bank := match s.params.mode with
      | .monochrome => 0
      | .color => p.bank
    let lo := vramByte s bank (16 * t.toNat + 2 * row)
    let hi := vramByte s bank (16 * t.toNat + 2 * row + 1)
    bitNat hi (7 - col) * 2 + bitNat lo (7 - col)
  else 0

/-- A sprite that shows at a column, with its colour index there. -/
structure SpritePixel where
  sprite : Sprite
  index : Nat
  deriving DecidableEq, Repr

/-- Of two candidates in OAM order, the one that wins (R1035): in monochrome mode the later one wins only with a
smaller X; in color mode never. -/
def betterSprite (mode : HwMode) (best next : SpritePixel) : SpritePixel :=
  match mode with
  | .monochrome => if next.sprite.x.toNat < best.sprite.x.toNat then next else best
  | .color => best

/-- The winner among the candidates, which stand in OAM order (R1035). -/
def bestSprite (mode : HwMode) : List SpritePixel → Option SpritePixel
  | [] => none
  | q :: rest => some (rest.foldl (betterSprite mode) q)

/-- The winning sprite pixel at column x (R1035): none where LCDC.OBJ_ON is 0 or no selected sprite is opaque. -/
def winningSprite (s : State) (line : Nat) (sprites : List Sprite) (x : Nat) : Option SpritePixel :=
  if s.ppu.lcdc.getLsbD 1 then
    bestSprite s.params.mode
      ((sprites.map fun p => { sprite := p, index := spriteIndex s line p x }).filter fun q => decide (q.index ≠ 0))
  else none

/-- `show_bg` of R1035. -/
def showBg (s : State) (bg : TilePixel) (q : SpritePixel) : Bool :=
  match s.params.mode with
  | .monochrome => q.sprite.behindBg && decide (bg.index ≠ 0)
  | .color => s.ppu.lcdc.getLsbD 0 && decide (bg.index ≠ 0) && (attrPriority bg.attr || q.sprite.behindBg)

/-! ## Palettes (R1050, R1051) -/

/-- The shade `(palette >> 2i) & 3` (R137, R1050). -/
def shadeOf (palette : Byte) (index : Nat) : Nat := palette.toNat / 4 ^ index % 4

/-- `DMG_SHADES[shade]` (R22), as an output colour: bit 15 is zero (R1052). -/
def Shades.color (t : Shades) (shade : Nat) : Word :=
  BitVec.setWidth 16 (match shade with
    | 0 => t.s0
    | 1 => t.s1
    | 2 => t.s2
    | _ => t.s3)

/-- The colour of palette p, index i, of the palette memory at `base`, with bit 15 cleared (R173, R1051). -/
def paletteColor (s : State) (base p i : Nat) : Word :=
  ((s.mem.read (base + 8 * p + 2 * i + 1)) ++ (s.mem.read (base + 8 * p + 2 * i)) : BitVec 16) &&& 0x7FFF

/-- The colour of a background or window pixel. In monochrome mode with LCDC.BG_ON = 0 it is DMG_SHADES[0], not
through BGP (R1032). -/
def bgColor (s : State) (bg : TilePixel) : Word :=
  match s.params.mode with
  | .monochrome =>
    if bgEnabled s then s.params.shades.color (shadeOf s.ppu.bgp bg.index) else s.params.shades.color 0
  | .color => paletteColor s bgPalBase (attrPalette bg.attr) bg.index

/-- The colour of a sprite pixel. -/
def spriteColor (s : State) (q : SpritePixel) : Word :=
  match s.params.mode with
  | .monochrome => s.params.shades.color (shadeOf (if q.sprite.dmgPal then s.ppu.obp1 else s.ppu.obp0) q.index)
  | .color => paletteColor s objPalBase q.sprite.cgbPal q.index

/-! ## The line -/

/-- The colour at column x of line L (R1030). -/
def pixelColor (s : State) (line : Nat) (sprites : List Sprite) (x : Nat) : Word :=
  let bg := bgPixel s line x
  match winningSprite s line sprites x with
  | none => bgColor s bg
  | some q => if showBg s bg q then bgColor s bg else spriteColor s q

/-- The finished row of line L (R1030, R1052). -/
def renderRow (s : State) (line : Nat) : List Word :=
  let sprites := lineSprites s line
  (List.range 160).map (pixelColor s line sprites)

/-- The window latch at the start of a line (R1040). -/
def latchWindow (line : Nat) (s : State) : State :=
  if s.ppu.wy.toNat = line then { s with ppu.winSeen := true } else s

/-- `render_line(L)` (R1030, R1040): latch the window, hand out the row, count the window's line. -/
def renderLine (line : Nat) (s : State) : State :=
  let s := latchWindow line s
  let out : VideoRow := { line := line, row := renderRow s line }
  { s with
    video := out :: s.video
    ppu.winLine := if (List.range 160).any (windowAt s) then s.ppu.winLine + 1 else s.ppu.winLine }

end Sys2Proof.Machine
end

