-- ==== Sys2Proof/Machine/Ppu.lean ====
section
/-! DEFINITION. The advance of the picture engine (65_ppu.md R1004, R1020 to R1022). -/

namespace Sys2Proof.Machine

/-- A STAT trigger: `request(1)` if its enable bit in STAT[6:3] is set (R1020). Bits 0, 1, 2, 3 stand for MODE0_INT,
MODE1_INT, MODE2_INT and LYC_INT. -/
def statTrigger (enable : Nat) (s : State) : State := if s.ppu.stat.getLsbD enable then request .stat s else s

/-- Entry into mode 0 on a visible line (R1004). -/
def enterHblank (s : State) : State :=
  let s := { s with ppu.mode := .hblank }
  statTrigger 0 (hblankHdma (renderLine s.ppu.line s))

/-- The check made when LINE changes (R1021). -/
def lycTrigger (s : State) : State := if s.ppu.line = s.ppu.lyc.toNat then statTrigger 3 s else s

/-- The mode entered at the start of line LINE (R1004). -/
def enterLine (s : State) : State :=
  if s.ppu.line = 144 then statTrigger 1 (request .vblank { s with ppu.mode := .vblank })
  else if s.ppu.line < 144 then
    let s := if s.ppu.line = 0 then { s with ppu.winLine := 0, ppu.winSeen := false } else s
    statTrigger 2 { s with ppu.mode := .oamScan }
  else s

/-- The end of a line (R1004). -/
def nextLine (s : State) : State :=
  lycTrigger (enterLine { s with ppu.dot := 0, ppu.line := (s.ppu.line + 1) % 154 })

/-- `ppu_dot()` (R1004). -/
def ppuDot (s : State) : State :=
  let s := { s with ppu.dot := s.ppu.dot + 1 }
  if s.ppu.dot = 80 then
    if s.ppu.line < 144 then { s with ppu.mode := .drawing } else s
  else if s.ppu.dot = 252 then
    if s.ppu.line < 144 then enterHblank s else s
  else if s.ppu.dot = 456 then nextLine s
  else s

/-- `ppu_advance(d)` (R1004). -/
def ppuAdvance (d : Nat) (s : State) : State := if s.ppu.lcdOn then repeatN ppuDot d s else s

end Sys2Proof.Machine
end

