-- ==== Sys2Proof/Machine/Advance.lean ====
section
/-! DEFINITION. The advance of the units after the processor's step (20_memory.md R234). -/

namespace Sys2Proof.Machine

/-- `rtc_advance(d)` on the machine: only variant B has a clock (R330). -/
def clockAdvance (d : Nat) (s : State) : State := { s with mapper := s.mapper.advance d }

/-- `audio_advance(d)` (R1231). -/
def audioAdvance (d : Nat) (s : State) : State := { s with audio := .advance d :: s.audio }

/-- The processor cycles of the step just taken: `cycles + gdma_cycles` (R860). -/
def processorCycles (s : State) : Nat := s.acct.cycles + s.acct.gdmaCycles

/-- `d` of R234: half the processor cycles if the step began in double speed. -/
def normalCycles (doubleSpeed : Bool) (c : Nat) : Nat := if doubleSpeed then c / 2 else c

/-- The advance of every unit, in the order of R234. `doubleSpeed` is DOUBLE_SPEED at the start of the step. -/
def advanceUnits (doubleSpeed : Bool) (s : State) : State :=
  let c := processorCycles s
  let d := normalCycles doubleSpeed c
  let s := audioAdvance d (clockAdvance d (serialAdvance c (timerAdvance c (ppuAdvance d s))))
  { s with acct.normalCycles := d }

/-- What `step` makes of the outcome of `cpu_step()`. -/
def finishStep (doubleSpeed : Bool) (r : Result) : Result :=
  match r with
  | .next s => .next (advanceUnits doubleSpeed s)
  | .fault e => .fault e
  | .refused e => .refused e

/-- What `cpu_step()` makes of the outcome of an instruction (R856, R860). -/
def finishInstr (delay : Bool) (r : Result) : Result :=
  match r with
  | .next s => .next (eiDelay delay s)
  | .fault e => .fault e
  | .refused e => .refused e

end Sys2Proof.Machine
end

