-- ==== Sys2Proof/Machine/Alu16.lean ====
section
/-! DEFINITION. The 16-bit arithmetic (43_alu16.md R701 to R704). -/

namespace Sys2Proof.Machine

/-- ADD HL,dd (R701). -/
def execAddHlDd (dd : Pair) (s : State) : Result := 
  let x := add16 s.cpu.hl (s.cpu.getPair dd)
  done 8 (setFlags (addHlFlags s.cpu.f x) (setHl x.r s))

/-- INC dd (R702). -/
def execIncDd (dd : Pair) (s : State) : Result := done 8 (setPair dd (s.cpu.getPair dd + 1) s)

/-- DEC dd (R703). -/
def execDecDd (dd : Pair) (s : State) : Result := done 8 (setPair dd (s.cpu.getPair dd - 1) s)

/-- ADD SP,e (R704). -/
def execAddSpE (e : Byte) (s : State) : Result := 
  let x := addSpByte s.cpu.sp e
  done 16 (setFlags (addSpFlags x) (setSp x.r s))

end Sys2Proof.Machine
end

