-- ==== Sys2Proof/Machine/Alu8.lean ====
section
/-! DEFINITION. The 8-bit arithmetic and logic (42_alu8.md R610 to R653). -/

namespace Sys2Proof.Machine

/-- ADD A,r (R610). -/
def execAddAR (r : Reg8) (s : State) : Result := done 4 (aluA .add (s.cpu.getR8 r) s)

/-- ADD A,(HL) (R611). -/
def execAddAAtHl (s : State) : Result := done 8 (aluA .add (readHl s) s)

/-- ADD A,n (R612). -/
def execAddAN (n : Byte) (s : State) : Result := done 8 (aluA .add n s)

/-- ADC A,r (R613). -/
def execAdcAR (r : Reg8) (s : State) : Result := done 4 (aluA .adc (s.cpu.getR8 r) s)

/-- ADC A,(HL) (R614). -/
def execAdcAAtHl (s : State) : Result := done 8 (aluA .adc (readHl s) s)

/-- ADC A,n (R615). -/
def execAdcAN (n : Byte) (s : State) : Result := done 8 (aluA .adc n s)

/-- SUB r (R616). -/
def execSubR (r : Reg8) (s : State) : Result := done 4 (aluA .sub (s.cpu.getR8 r) s)

/-- SUB (HL) (R617). -/
def execSubAtHl (s : State) : Result := done 8 (aluA .sub (readHl s) s)

/-- SUB n (R618). -/
def execSubN (n : Byte) (s : State) : Result := done 8 (aluA .sub n s)

/-- SBC A,r (R619). -/
def execSbcAR (r : Reg8) (s : State) : Result := done 4 (aluA .sbc (s.cpu.getR8 r) s)

/-- SBC A,(HL) (R620). -/
def execSbcAAtHl (s : State) : Result := done 8 (aluA .sbc (readHl s) s)

/-- SBC A,n (R621). -/
def execSbcAN (n : Byte) (s : State) : Result := done 8 (aluA .sbc n s)

/-- AND r (R622). -/
def execAndR (r : Reg8) (s : State) : Result := done 4 (aluA .and (s.cpu.getR8 r) s)

/-- AND (HL) (R623). -/
def execAndAtHl (s : State) : Result := done 8 (aluA .and (readHl s) s)

/-- AND n (R624). -/
def execAndN (n : Byte) (s : State) : Result := done 8 (aluA .and n s)

/-- XOR r (R625). -/
def execXorR (r : Reg8) (s : State) : Result := done 4 (aluA .xor (s.cpu.getR8 r) s)

/-- XOR (HL) (R626). -/
def execXorAtHl (s : State) : Result := done 8 (aluA .xor (readHl s) s)

/-- XOR n (R627). -/
def execXorN (n : Byte) (s : State) : Result := done 8 (aluA .xor n s)

/-- OR r (R628). -/
def execOrR (r : Reg8) (s : State) : Result := done 4 (aluA .or (s.cpu.getR8 r) s)

/-- OR (HL) (R629). -/
def execOrAtHl (s : State) : Result := done 8 (aluA .or (readHl s) s)

/-- OR n (R630). -/
def execOrN (n : Byte) (s : State) : Result := done 8 (aluA .or n s)

/-- CP r (R631). -/
def execCpR (r : Reg8) (s : State) : Result := done 4 (aluA .cp (s.cpu.getR8 r) s)

/-- CP (HL) (R632). -/
def execCpAtHl (s : State) : Result := done 8 (aluA .cp (readHl s) s)

/-- CP n (R633). -/
def execCpN (n : Byte) (s : State) : Result := done 8 (aluA .cp n s)

/-- INC r (R640). -/
def execIncR (r : Reg8) (s : State) : Result := 
  let x := add8 (s.cpu.getR8 r) 1 false
  done 4 (setFlags (incFlags s.cpu.f x) (setR8 r x.r s))

/-- INC (HL) (R641). -/
def execIncAtHl (s : State) : Result := 
  let x := add8 (readHl s) 1 false
  done 12 (setFlags (incFlags s.cpu.f x) (writeHl x.r s))

/-- DEC r (R642). -/
def execDecR (r : Reg8) (s : State) : Result := 
  let x := sub8 (s.cpu.getR8 r) 1 false
  done 4 (setFlags (decFlags s.cpu.f x) (setR8 r x.r s))

/-- DEC (HL) (R643). -/
def execDecAtHl (s : State) : Result := 
  let x := sub8 (readHl s) 1 false
  done 12 (setFlags (decFlags s.cpu.f x) (writeHl x.r s))

/-- DAA (R650). -/
def execDaa (s : State) : Result := 
  let x := daaResult s.cpu.a s.cpu.f
  done 4 (setFlags x.2 (setA x.1 s))

/-- CPL (R651). -/
def execCpl (s : State) : Result := done 4 (setFlags { s.cpu.f with n := true, h := true } (setA (~~~s.cpu.a) s))

/-- SCF (R652). -/
def execScf (s : State) : Result := done 4 (setFlags { s.cpu.f with n := false, h := false, c := true } s)

/-- CCF (R653). -/
def execCcf (s : State) : Result := done 4 (setFlags { s.cpu.f with n := false, h := false, c := !s.cpu.f.c } s)

end Sys2Proof.Machine
end

