-- ==== Sys2Proof/Machine/Control.lean ====
section
/-! DEFINITION. The jumps, calls, returns and restarts (45_control.md R800 to R810). PC is the address after the
instruction's bytes (R500). -/

namespace Sys2Proof.Machine

/-- JP nn (R800). -/
def execJpNn (nn : Word) (s : State) : Result := done 16 (setPc nn s)

/-- JP cc,nn (R801). -/
def execJpCcNn (cc : Cond) (nn : Word) (s : State) : Result := 
  if s.cpu.f.cond cc then done 16 (setPc nn s) else done 12 s

/-- JP HL (R802): no memory is read. -/
def execJpHl (s : State) : Result := done 4 (setPc s.cpu.hl s)

/-- JR e (R803). -/
def execJrE (e : Byte) (s : State) : Result := done 12 (jumpRelative e s)

/-- JR cc,e (R804). -/
def execJrCcE (cc : Cond) (e : Byte) (s : State) : Result := 
  if s.cpu.f.cond cc then done 12 (jumpRelative e s) else done 8 s

/-- CALL nn (R805). -/
def execCallNn (nn : Word) (s : State) : Result := done 24 (call nn s)

/-- CALL cc,nn (R806). -/
def execCallCcNn (cc : Cond) (nn : Word) (s : State) : Result := 
  if s.cpu.f.cond cc then done 24 (call nn s) else done 12 s

/-- RET (R807). -/
def execRet (s : State) : Result := done 16 (returnPc s)

/-- RET cc (R808). -/
def execRetCc (cc : Cond) (s : State) : Result := 
  if s.cpu.f.cond cc then done 20 (returnPc s) else done 8 s

/-- RETI (R809). -/
def execReti (s : State) : Result := done 16 (returnFromInterrupt s)

/-- RST t (R810). -/
def execRstT (t : BitVec 3) (s : State) : Result := done 16 (call (BitVec.ofNat 16 (t.toNat * 8)) s)

end Sys2Proof.Machine
end

