-- ==== Sys2Proof/Machine/Loads16.lean ====
section
/-! DEFINITION. The 16-bit loads and the stack (41_loads16_stack.md R550 to R556). -/

namespace Sys2Proof.Machine

/-- LD dd,nn (R550). -/
def execLdDdNn (dd : Pair) (nn : Word) (s : State) : Result := done 12 (setPair dd nn s)

/-- LD (nn),SP (R551): the low byte first. -/
def execLdAtNnSp (nn : Word) (s : State) : Result := done 20 (memWrite16 s nn s.cpu.sp)

/-- LD SP,HL (R552). -/
def execLdSpHl (s : State) : Result := done 8 (setSp s.cpu.hl s)

/-- PUSH qq (R553). -/
def execPushQq (qq : StackPair) (s : State) : Result := done 16 (push16 (s.cpu.getStackPair qq) s)

/-- LD HL,SP+e (R554). -/
def execLdHlSpE (e : Byte) (s : State) : Result := 
  let x := addSpByte s.cpu.sp e
  done 12 (setFlags (addSpFlags x) (setHl x.r s))

/-- POP qq (R555). -/
def execPopQq (qq : StackPair) (s : State) : Result := done 12 (setStackPair qq (stackTop s) (dropTop s))

/-- POP AF (R556): F[3:0] stay 0. -/
def execPopAf (s : State) : Result := done 12 (setStackPair .af (stackTop s) (dropTop s))

end Sys2Proof.Machine
end

