-- ==== Sys2Proof/Machine/Loads8.lean ====
section
/-! DEFINITION. The 8-bit loads (40_loads8.md R501 to R519). -/

namespace Sys2Proof.Machine

/-- LD r,r' (R501). -/
def execLdRR (r r' : Reg8) (s : State) : Result := done 4 (setR8 r (s.cpu.getR8 r') s)

/-- LD r,n (R502). -/
def execLdRN (r : Reg8) (n : Byte) (s : State) : Result := done 8 (setR8 r n s)

/-- LD r,(HL) (R503). -/
def execLdRAtHl (r : Reg8) (s : State) : Result := done 8 (setR8 r (readHl s) s)

/-- LD (HL),r (R504). -/
def execLdAtHlR (r : Reg8) (s : State) : Result := done 8 (writeHl (s.cpu.getR8 r) s)

/-- LD (HL),n (R505). -/
def execLdAtHlN (n : Byte) (s : State) : Result := done 12 (writeHl n s)

/-- LD A,(BC) (R506). -/
def execLdAAtBc (s : State) : Result := done 8 (setA (memRead s s.cpu.bc) s)

/-- LD A,(DE) (R507). -/
def execLdAAtDe (s : State) : Result := done 8 (setA (memRead s s.cpu.de) s)

/-- LD (BC),A (R508). -/
def execLdAtBcA (s : State) : Result := done 8 (memWrite s s.cpu.bc s.cpu.a)

/-- LD (DE),A (R509). -/
def execLdAtDeA (s : State) : Result := done 8 (memWrite s s.cpu.de s.cpu.a)

/-- LD A,(nn) (R510). -/
def execLdAAtNn (nn : Word) (s : State) : Result := done 16 (setA (memRead s nn) s)

/-- LD (nn),A (R511). -/
def execLdAtNnA (nn : Word) (s : State) : Result := done 16 (memWrite s nn s.cpu.a)

/-- LDH A,(C) (R512). -/
def execLdhAAtC (s : State) : Result := done 8 (setA (memRead s (highPage s.cpu.c)) s)

/-- LDH (C),A (R513). -/
def execLdhAtCA (s : State) : Result := done 8 (memWrite s (highPage s.cpu.c) s.cpu.a)

/-- LDH A,(n) (R514). -/
def execLdhAAtN (n : Byte) (s : State) : Result := done 12 (setA (memRead s (highPage n)) s)

/-- LDH (n),A (R515). -/
def execLdhAtNA (n : Byte) (s : State) : Result := done 12 (memWrite s (highPage n) s.cpu.a)

/-- LD A,(HL-) (R516). -/
def execLdAAtHlDec (s : State) : Result := done 8 (setHl (s.cpu.hl - 1) (setA (readHl s) s))

/-- LD (HL-),A (R517). -/
def execLdAtHlDecA (s : State) : Result := done 8 (setHl (s.cpu.hl - 1) (writeHl s.cpu.a s))

/-- LD A,(HL+) (R518). -/
def execLdAAtHlInc (s : State) : Result := done 8 (setHl (s.cpu.hl + 1) (setA (readHl s) s))

/-- LD (HL+),A (R519). -/
def execLdAtHlIncA (s : State) : Result := done 8 (setHl (s.cpu.hl + 1) (writeHl s.cpu.a s))

end Sys2Proof.Machine
end

