-- ==== Sys2Proof/Machine/Rotates.lean ====
section
/-! DEFINITION. The rotates, shifts and bit operations (44_rotate_shift_bit.md R751 to R785). -/

namespace Sys2Proof.Machine

/-- RLCA (R751). -/
def execRlca (s : State) : Result := done 4 (shiftA .rlc s)

/-- RRCA (R752). -/
def execRrca (s : State) : Result := done 4 (shiftA .rrc s)

/-- RLA (R753). -/
def execRla (s : State) : Result := done 4 (shiftA .rl s)

/-- RRA (R754). -/
def execRra (s : State) : Result := done 4 (shiftA .rr s)

/-- RLC r (R760). -/
def execRlcR (r : Reg8) (s : State) : Result := done 8 (shiftR .rlc r s)

/-- RLC (HL) (R761). -/
def execRlcAtHl (s : State) : Result := done 16 (shiftHl .rlc s)

/-- RRC r (R762). -/
def execRrcR (r : Reg8) (s : State) : Result := done 8 (shiftR .rrc r s)

/-- RRC (HL) (R763). -/
def execRrcAtHl (s : State) : Result := done 16 (shiftHl .rrc s)

/-- RL r (R764). -/
def execRlR (r : Reg8) (s : State) : Result := done 8 (shiftR .rl r s)

/-- RL (HL) (R765). -/
def execRlAtHl (s : State) : Result := done 16 (shiftHl .rl s)

/-- RR r (R766). -/
def execRrR (r : Reg8) (s : State) : Result := done 8 (shiftR .rr r s)

/-- RR (HL) (R767). -/
def execRrAtHl (s : State) : Result := done 16 (shiftHl .rr s)

/-- SLA r (R768). -/
def execSlaR (r : Reg8) (s : State) : Result := done 8 (shiftR .sla r s)

/-- SLA (HL) (R769). -/
def execSlaAtHl (s : State) : Result := done 16 (shiftHl .sla s)

/-- SRA r (R770). -/
def execSraR (r : Reg8) (s : State) : Result := done 8 (shiftR .sra r s)

/-- SRA (HL) (R771). -/
def execSraAtHl (s : State) : Result := done 16 (shiftHl .sra s)

/-- SWAP r (R772). -/
def execSwapR (r : Reg8) (s : State) : Result := done 8 (shiftR .swap r s)

/-- SWAP (HL) (R773). -/
def execSwapAtHl (s : State) : Result := done 16 (shiftHl .swap s)

/-- SRL r (R774). -/
def execSrlR (r : Reg8) (s : State) : Result := done 8 (shiftR .srl r s)

/-- SRL (HL) (R775). -/
def execSrlAtHl (s : State) : Result := done 16 (shiftHl .srl s)

/-- BIT b,r (R780). -/
def execBitBR (b : BitVec 3) (r : Reg8) (s : State) : Result := done 8 (setFlags (bitFlags s.cpu.f (s.cpu.getR8 r) b) s)

/-- BIT b,(HL) (R781). -/
def execBitBAtHl (b : BitVec 3) (s : State) : Result := done 12 (setFlags (bitFlags s.cpu.f (readHl s) b) s)

/-- RES b,r (R782). -/
def execResBR (b : BitVec 3) (r : Reg8) (s : State) : Result := done 8 (setR8 r (clearBit (s.cpu.getR8 r) b) s)

/-- RES b,(HL) (R783): the write happens even when the bit is 0. -/
def execResBAtHl (b : BitVec 3) (s : State) : Result := done 16 (writeHl (clearBit (readHl s) b) s)

/-- SET b,r (R784). -/
def execSetBR (b : BitVec 3) (r : Reg8) (s : State) : Result := done 8 (setR8 r (setBit (s.cpu.getR8 r) b) s)

/-- SET b,(HL) (R785). -/
def execSetBAtHl (b : BitVec 3) (s : State) : Result := done 16 (writeHl (setBit (readHl s) b) s)

end Sys2Proof.Machine
end

