-- ==== Sys2Proof/Machine/System.lean ====
section
/-! DEFINITION. The system instructions (46_system.md R850 to R858). -/

namespace Sys2Proof.Machine

/-- NOP (R850). -/
def execNop (s : State) : Result := done 4 s

/-- HALT (R852). -/
def execHalt (s : State) : Result := done 4 (halt s)

/-- STOP (R853); the byte after the opcode is ignored (R425). -/
def execStop (_ignored : Byte) (s : State) : Result := 
  if stopSwitches s then done Config.speedSwitchCycles (speedSwitch s) else done 4 (stopCpu s)

/-- DI (R854). -/
def execDi (s : State) : Result := done 4 { s with cpu.ime := false, cpu.imeDelay := false }

/-- EI (R855). -/
def execEi (s : State) : Result := done 4 { s with cpu.imeDelay := true }

/-- The unused opcode 0xD3 (R432, R858). -/
def execIllegalD3 (s : State) : Result := done 4 (lock 0xD3 s)

/-- The unused opcode 0xDB (R432, R858). -/
def execIllegalDB (s : State) : Result := done 4 (lock 0xDB s)

/-- The unused opcode 0xDD (R432, R858). -/
def execIllegalDD (s : State) : Result := done 4 (lock 0xDD s)

/-- The unused opcode 0xE3 (R432, R858). -/
def execIllegalE3 (s : State) : Result := done 4 (lock 0xE3 s)

/-- The unused opcode 0xE4 (R432, R858). -/
def execIllegalE4 (s : State) : Result := done 4 (lock 0xE4 s)

/-- The unused opcode 0xEB (R432, R858). -/
def execIllegalEB (s : State) : Result := done 4 (lock 0xEB s)

/-- The unused opcode 0xEC (R432, R858). -/
def execIllegalEC (s : State) : Result := done 4 (lock 0xEC s)

/-- The unused opcode 0xED (R432, R858). -/
def execIllegalED (s : State) : Result := done 4 (lock 0xED s)

/-- The unused opcode 0xF4 (R432, R858). -/
def execIllegalF4 (s : State) : Result := done 4 (lock 0xF4 s)

/-- The unused opcode 0xFC (R432, R858). -/
def execIllegalFC (s : State) : Result := done 4 (lock 0xFC s)

/-- The unused opcode 0xFD (R432, R858). -/
def execIllegalFD (s : State) : Result := done 4 (lock 0xFD s)

/-- The CB forms with x = 00 (R415, R431). -/
def execCbShift (y : Oct) (operand : Option Reg8) (s : State) : Result :=
  match y, operand with
  | .o0, some r => execRlcR r s
  | .o0, none => execRlcAtHl s
  | .o1, some r => execRrcR r s
  | .o1, none => execRrcAtHl s
  | .o2, some r => execRlR r s
  | .o2, none => execRlAtHl s
  | .o3, some r => execRrR r s
  | .o3, none => execRrAtHl s
  | .o4, some r => execSlaR r s
  | .o4, none => execSlaAtHl s
  | .o5, some r => execSraR r s
  | .o5, none => execSraAtHl s
  | .o6, some r => execSwapR r s
  | .o6, none => execSwapAtHl s
  | .o7, some r => execSrlR r s
  | .o7, none => execSrlAtHl s

/-- PREFIX CB (R857): the CB form that the second byte selects (R431). -/
def execPrefixCb (op2 : Byte) (s : State) : Result :=
  let b := fieldY op2
  match (fieldX op2).toNat, reg8OfField (fieldZ op2) with
  | 0, operand => execCbShift (oct b) operand s
  | 1, some r => execBitBR b r s
  | 1, none => execBitBAtHl b s
  | 2, some r => execResBR b r s
  | 2, none => execResBAtHl b s
  | _, some r => execSetBR b r s
  | _, none => execSetBAtHl b s

end Sys2Proof.Machine
end

