-- ==== Sys2Proof/Machine/Dispatch.lean ====
section
/-! DEFINITION. The dispatch: one meaning per constructor of `Instr`. -/

namespace Sys2Proof.Machine

def exec (i : Instr) (s : State) : Host.Outcome State Fault Refusal :=
  match i with
  | .nop => Sys2Proof.Machine.execNop s
  | .ldDdNn dd nn => Sys2Proof.Machine.execLdDdNn dd nn s
  | .ldAtBcA => Sys2Proof.Machine.execLdAtBcA s
  | .ldAtDeA => Sys2Proof.Machine.execLdAtDeA s
  | .ldAtHlIncA => Sys2Proof.Machine.execLdAtHlIncA s
  | .ldAtHlDecA => Sys2Proof.Machine.execLdAtHlDecA s
  | .incDd dd => Sys2Proof.Machine.execIncDd dd s
  | .incR r => Sys2Proof.Machine.execIncR r s
  | .incAtHl => Sys2Proof.Machine.execIncAtHl s
  | .decR r => Sys2Proof.Machine.execDecR r s
  | .decAtHl => Sys2Proof.Machine.execDecAtHl s
  | .ldRN r n => Sys2Proof.Machine.execLdRN r n s
  | .ldAtHlN n => Sys2Proof.Machine.execLdAtHlN n s
  | .rlca => Sys2Proof.Machine.execRlca s
  | .rrca => Sys2Proof.Machine.execRrca s
  | .rla => Sys2Proof.Machine.execRla s
  | .rra => Sys2Proof.Machine.execRra s
  | .daa => Sys2Proof.Machine.execDaa s
  | .cpl => Sys2Proof.Machine.execCpl s
  | .scf => Sys2Proof.Machine.execScf s
  | .ccf => Sys2Proof.Machine.execCcf s
  | .ldAtNnSp nn => Sys2Proof.Machine.execLdAtNnSp nn s
  | .addHlDd dd => Sys2Proof.Machine.execAddHlDd dd s
  | .ldAAtBc => Sys2Proof.Machine.execLdAAtBc s
  | .ldAAtDe => Sys2Proof.Machine.execLdAAtDe s
  | .ldAAtHlInc => Sys2Proof.Machine.execLdAAtHlInc s
  | .ldAAtHlDec => Sys2Proof.Machine.execLdAAtHlDec s
  | .decDd dd => Sys2Proof.Machine.execDecDd dd s
  | .stop ignored => Sys2Proof.Machine.execStop ignored s
  | .jrE e => Sys2Proof.Machine.execJrE e s
  | .jrCcE cc e => Sys2Proof.Machine.execJrCcE cc e s
  | .ldRR r q => Sys2Proof.Machine.execLdRR r q s
  | .ldRAtHl r => Sys2Proof.Machine.execLdRAtHl r s
  | .ldAtHlR q => Sys2Proof.Machine.execLdAtHlR q s
  | .halt => Sys2Proof.Machine.execHalt s
  | .addAR q => Sys2Proof.Machine.execAddAR q s
  | .addAAtHl => Sys2Proof.Machine.execAddAAtHl s
  | .addAN n => Sys2Proof.Machine.execAddAN n s
  | .adcAR q => Sys2Proof.Machine.execAdcAR q s
  | .adcAAtHl => Sys2Proof.Machine.execAdcAAtHl s
  | .adcAN n => Sys2Proof.Machine.execAdcAN n s
  | .subR q => Sys2Proof.Machine.execSubR q s
  | .subAtHl => Sys2Proof.Machine.execSubAtHl s
  | .subN n => Sys2Proof.Machine.execSubN n s
  | .sbcAR q => Sys2Proof.Machine.execSbcAR q s
  | .sbcAAtHl => Sys2Proof.Machine.execSbcAAtHl s
  | .sbcAN n => Sys2Proof.Machine.execSbcAN n s
  | .andR q => Sys2Proof.Machine.execAndR q s
  | .andAtHl => Sys2Proof.Machine.execAndAtHl s
  | .andN n => Sys2Proof.Machine.execAndN n s
  | .xorR q => Sys2Proof.Machine.execXorR q s
  | .xorAtHl => Sys2Proof.Machine.execXorAtHl s
  | .xorN n => Sys2Proof.Machine.execXorN n s
  | .orR q => Sys2Proof.Machine.execOrR q s
  | .orAtHl => Sys2Proof.Machine.execOrAtHl s
  | .orN n => Sys2Proof.Machine.execOrN n s
  | .cpR q => Sys2Proof.Machine.execCpR q s
  | .cpAtHl => Sys2Proof.Machine.execCpAtHl s
  | .cpN n => Sys2Proof.Machine.execCpN n s
  | .retCc cc => Sys2Proof.Machine.execRetCc cc s
  | .popQq qq => Sys2Proof.Machine.execPopQq qq s
  | .popAf => Sys2Proof.Machine.execPopAf s
  | .jpCcNn cc nn => Sys2Proof.Machine.execJpCcNn cc nn s
  | .jpNn nn => Sys2Proof.Machine.execJpNn nn s
  | .callCcNn cc nn => Sys2Proof.Machine.execCallCcNn cc nn s
  | .pushQq qq => Sys2Proof.Machine.execPushQq qq s
  | .rstT t => Sys2Proof.Machine.execRstT t s
  | .ret => Sys2Proof.Machine.execRet s
  | .reti => Sys2Proof.Machine.execReti s
  | .callNn nn => Sys2Proof.Machine.execCallNn nn s
  | .ldhAtNA n => Sys2Proof.Machine.execLdhAtNA n s
  | .ldhAtCA => Sys2Proof.Machine.execLdhAtCA s
  | .addSpE e => Sys2Proof.Machine.execAddSpE e s
  | .jpHl => Sys2Proof.Machine.execJpHl s
  | .ldAtNnA nn => Sys2Proof.Machine.execLdAtNnA nn s
  | .ldhAAtN n => Sys2Proof.Machine.execLdhAAtN n s
  | .ldhAAtC => Sys2Proof.Machine.execLdhAAtC s
  | .di => Sys2Proof.Machine.execDi s
  | .ldHlSpE e => Sys2Proof.Machine.execLdHlSpE e s
  | .ldSpHl => Sys2Proof.Machine.execLdSpHl s
  | .ldAAtNn nn => Sys2Proof.Machine.execLdAAtNn nn s
  | .ei => Sys2Proof.Machine.execEi s
  | .prefixCb op2 => Sys2Proof.Machine.execPrefixCb op2 s
  | .illegalD3 => Sys2Proof.Machine.execIllegalD3 s
  | .illegalDB => Sys2Proof.Machine.execIllegalDB s
  | .illegalDD => Sys2Proof.Machine.execIllegalDD s
  | .illegalE3 => Sys2Proof.Machine.execIllegalE3 s
  | .illegalE4 => Sys2Proof.Machine.execIllegalE4 s
  | .illegalEB => Sys2Proof.Machine.execIllegalEB s
  | .illegalEC => Sys2Proof.Machine.execIllegalEC s
  | .illegalED => Sys2Proof.Machine.execIllegalED s
  | .illegalF4 => Sys2Proof.Machine.execIllegalF4 s
  | .illegalFC => Sys2Proof.Machine.execIllegalFC s
  | .illegalFD => Sys2Proof.Machine.execIllegalFD s
  | .rlcR q => Sys2Proof.Machine.execRlcR q s
  | .rlcAtHl => Sys2Proof.Machine.execRlcAtHl s
  | .rrcR q => Sys2Proof.Machine.execRrcR q s
  | .rrcAtHl => Sys2Proof.Machine.execRrcAtHl s
  | .rlR q => Sys2Proof.Machine.execRlR q s
  | .rlAtHl => Sys2Proof.Machine.execRlAtHl s
  | .rrR q => Sys2Proof.Machine.execRrR q s
  | .rrAtHl => Sys2Proof.Machine.execRrAtHl s
  | .slaR q => Sys2Proof.Machine.execSlaR q s
  | .slaAtHl => Sys2Proof.Machine.execSlaAtHl s
  | .sraR q => Sys2Proof.Machine.execSraR q s
  | .sraAtHl => Sys2Proof.Machine.execSraAtHl s
  | .swapR q => Sys2Proof.Machine.execSwapR q s
  | .swapAtHl => Sys2Proof.Machine.execSwapAtHl s
  | .srlR q => Sys2Proof.Machine.execSrlR q s
  | .srlAtHl => Sys2Proof.Machine.execSrlAtHl s
  | .bitBR b q => Sys2Proof.Machine.execBitBR b q s
  | .bitBAtHl b => Sys2Proof.Machine.execBitBAtHl b s
  | .resBR b q => Sys2Proof.Machine.execResBR b q s
  | .resBAtHl b => Sys2Proof.Machine.execResBAtHl b s
  | .setBR b q => Sys2Proof.Machine.execSetBR b q s
  | .setBAtHl b => Sys2Proof.Machine.execSetBAtHl b s

end Sys2Proof.Machine
end

