-- ==== Sys2Proof/Machine/Step.lean ====
section
/-! DEFINITION. The step of the processor (46_system.md R860) and of the machine (20_memory.md R234), and the
placing of a word where the next step fetches. -/

namespace Sys2Proof.Machine

/-- The instruction at PC: fetched, executed, and the delay of EI (R856, R859, R860). -/
def runInstr (s : State) : Host.Outcome State Fault Refusal :=
  finishInstr s.cpu.imeDelay (exec (fetched s) (afterFetch (fetched s) s))

/-- `cpu_step()` (R860). -/
def cpuStep (s : State) : Host.Outcome State Fault Refusal :=
  let s := beginStep s
  match stepKind s with
  | .locked => done Config.lockIdleCycles s
  | .stopped => done Config.stopIdleCycles s
  | .haltIdle => done Config.haltIdleCycles s
  | .service => service (wake s)
  | .execute => runInstr (wake s)

/-- `machine_step()` (R234). -/
def step (s : State) : Host.Outcome State Fault Refusal := finishStep s.cpu.doubleSpeed (cpuStep s)

/-- The state s, with the instruction whose bits the table numbers as w stored where the next step fetches, and the
processor ready to fetch it (log 2, log 5). -/
def State.withFetchWord (s : State) (nbits w : Nat) : State :=
  placeBytes (readyToFetch s).cpu.pc (tableBytes nbits w) (readyToFetch s)

end Sys2Proof.Machine
end

