-- ==== Sys2Proof/Machine/Build.lean ====
section
/-! DEFINITION. Construction (80_host_interface.md R1200 to R1202; 25_cartridge.md R301 to R304;
70_reset_and_hazards.md R1100 to R1105). -/

namespace Sys2Proof.Machine

/-- Why the builder rejects an image (R304, R1202). A value for the host, not a fault of a machine.
Which one is reported where several hold is the model's choice (log 23). -/
inductive BuildError where
  /-- The image is shorter than 0x150 bytes. -/
  | tooShort
  /-- CART_TYPE selects no variant. -/
  | cartType
  /-- ROM_SIZE > 0x08. -/
  | romSize
  /-- RAM_SIZE > 0x05. -/
  | ramSize
  /-- The image length is not ROM_BANKS x 16384. -/
  | imageLength
  /-- The variant does not take so many banks. -/
  | bankLayout
  deriving DecidableEq, Repr

/-- The options and parameters of the builder (R1200). BOOT_IMAGE and SAVE_RAM_INIT are lists of any length, fitted to
their memories by `fitBytes` (DESIGN CHOICE, log 24). -/
structure BuildOptions where
  mode : Option HwMode
  palette : Option Shades
  bootSkip : Bool
  haltBug : Bool
  vramBlocking : Bool
  serialIn : SerialIn
  audioRead : AudioRead
  divInit : Word
  bootImage : List Byte
  saveRamInit : List Byte
  deriving DecidableEq, Repr

/-- Every option at its default (R17 to R24). BOOT_IMAGE has no default in the spec: the empty list here, which `build`
reads as an image of bytes 0x00 where BOOT_SKIP is set false, is the model's (DESIGN CHOICE, log 24). -/
def BuildOptions.default : BuildOptions :=
  { mode := none, palette := none, bootSkip := true, haltBug := true, vramBlocking := true, serialIn := SerialIn.default
    audioRead := .reference, divInit := 0xABCC, bootImage := [], saveRamInit := [] }

/-- A byte of the image; bytes past its end are not reached after `tooShort` is ruled out. -/
def imageByte (image : List Byte) (i : Nat) : Byte := image.getD i 0

/-- The variant CART_TYPE selects (R303), at its construction values (R310). -/
def selectVariant (cartType : Byte) : Option Mapper :=
  if cartType = 0x00 then some .noMapper
  else if cartType.toNat ∈ [0x01, 0x02, 0x03] then some (.variantA VariantA.initial)
  else if cartType.toNat ∈ [0x0F, 0x10, 0x11, 0x12, 0x13] then some (.variantB VariantB.initial)
  else none

/-- RAM_BANKS by RAM_SIZE (R303). -/
def ramBanksOf (ramSize : Byte) : Nat :=
  match ramSize.toNat with
  | 0x00 => 0 | 0x01 => 1 | 0x02 => 1 | 0x03 => 4 | 0x04 => 16
  | _ => 8

/-- ROM_BANKS, RAM_BANKS and RAM_BYTES (R303). -/
def cartOf (romSize ramSize : Byte) : Cart :=
  { romBanks := 2 <<< romSize.toNat
    ramBanks := ramBanksOf ramSize
    ramBytes := if ramSize = 0x01 then 2048 else ramBanksOf ramSize * 8192 }

/-- Whether a variant takes a layout (R304). -/
def layoutOk (m : Mapper) (c : Cart) : Bool :=
  match m with
  | .noMapper => decide (c.romBanks = 2)
  | .variantA _ => decide (c.romBanks ≤ 128 ∧ c.ramBanks ≤ 4)
  | .variantB _ => decide (c.romBanks ≤ 128 ∧ c.ramBanks ≤ 8)

/-- `make_mapper(image)` (R303, R304). R304 says only that any of its conditions rejects; where several hold, the reason
answered is the first in the order tooShort, cartType, romSize, ramSize, imageLength, bankLayout (DESIGN CHOICE,
log 23). -/
def makeMapper (image : List Byte) : Except BuildError (Mapper × Cart) :=
  if image.length < 0x150 then .error .tooShort
  else
    match selectVariant (imageByte image 0x147) with
    | none => .error .cartType
    | some m =>
      let romSize := imageByte image 0x148
      let ramSize := imageByte image 0x149
      let cart := cartOf romSize ramSize
      if romSize.toNat > 0x08 then .error .romSize
      else if ramSize.toNat > 0x05 then .error .ramSize
      else if image.length ≠ cart.romBanks * 16384 then .error .imageLength
      else if layoutOk m cart then .ok (m, cart)
      else .error .bankLayout

/-- `select_mode(image, mode_opt)` (R1201), from CGB_FLAG. -/
def selectMode (cgbFlag : Byte) (opt : Option HwMode) : HwMode :=
  if cgbFlag.getLsbD 7 = false then .monochrome
  else if cgbFlag = 0xC0 then .color
  else opt.getD .color

/-- The parameters of a machine (R1200): the palette option is ignored in color mode (R1052). -/
def paramsOf (mode : HwMode) (o : BuildOptions) : Params :=
  { mode := mode, haltBug := o.haltBug, vramBlocking := o.vramBlocking, serialIn := o.serialIn
    audioRead := o.audioRead
    shades := match mode with
      | .monochrome => o.palette.getD Shades.default
      | .color => Shades.default }

/-- n bytes: the list cut or continued with 0x00. The spec gives BOOT_IMAGE a fixed length and says nothing of a
SAVE_RAM_INIT of another length than RAM_BYTES: the fitting is the model's (DESIGN CHOICE, log 24). -/
def fitBytes (n : Nat) (l : List Byte) : List Byte := l.take n ++ List.replicate (n - l.length) 0x00

/-- The cartridge's memories put into a store: the image and the initial cartridge RAM (R24, R170). -/
def placeCart (ramBytes : Nat) (image saveRamInit : List Byte) (m : Memory) : Memory :=
  (m.writeList romBase image).writeList cramBase (fitBytes ramBytes saveRamInit)

/-- The length of BOOT_IMAGE (R1200). -/
def bootImageLength : HwMode → Nat
  | .monochrome => 256
  | .color => 2304

/-- The picture engine on the boot-ROM path (R1003, R1105): drawn, with LINE and DOT in the ranges of R1001. -/
def Ppu.bootRom (x : Ppu) : Ppu := { x with line := x.line % 154, dot := x.dot % 456 }

/-- The serial port on the boot-ROM path: drawn, with SER_BITS in the range of R180; FAST, which monochrome mode
lacks, holds its construction value there (log 16). -/
def Serial.bootRom (mode : HwMode) (x : Serial) : Serial :=
  { x with
    bits := x.bits % 9
    fast := match mode with
      | .monochrome => false
      | .color => x.fast }

/-- The HDMA registers on the boot-ROM path: drawn, with HDMA_SRC[3:0] and HDMA_DST[3:0] 0 (R153, R155) and
HDMA_ACTIVE 0 (R1104); monochrome mode lacks them (log 16). -/
def Hdma.bootRom (mode : HwMode) (x : Hdma) : Hdma :=
  match mode with
  | .monochrome => Hdma.bootSkip
  | .color => { x with src := x.src &&& 0xFFF0, dst := x.dst &&& 0x1FF0, active := false }

/-- The color registers on the boot-ROM path: drawn, with KEY1.ARMED 0 (R1104); monochrome mode lacks them (log 16). -/
def ColorRegs.bootRom (mode : HwMode) (x : ColorRegs) : ColorRegs :=
  match mode with
  | .monochrome => ColorRegs.bootSkip
  | .color => { x with key1Armed := false }

/-- The boot-ROM procedure (R1104). Everything the spec leaves unspecified on this path is taken from `draws`
(R1105; log 13). -/
def State.bootRom (params : Params) (cart : Cart) (mapper : Mapper) (image : List Byte) (o : BuildOptions)
    (draws : State) : State :=
  { params := params
    cpu := { draws.cpu with
      pc := 0x0000, ime := false, imeDelay := false, halted := false, stopped := false, haltBugPending := false
      locked := false, doubleSpeed := false }
    acct := { cycles := 0, gdmaCycles := 0, normalCycles := 0 }
    irq := draws.irq
    joypad := { draws.joypad with pressed := 0x00 }
    serial := Serial.bootRom params.mode draws.serial
    timer := draws.timer
    ppu := Ppu.bootRom draws.ppu
    dma := draws.dma
    hdma := Hdma.bootRom params.mode draws.hdma
    color := ColorRegs.bootRom params.mode draws.color
    bootMapped := true
    cart := cart
    mapper := mapper
    mem := (placeCart (mapper.ramBytes cart) image o.saveRamInit draws.mem).writeList bootBase
      (fitBytes (bootImageLength params.mode) o.bootImage)
    audio := []
    video := []
    carry := 0
    frameCalled := false }

/-- `build` (R1200). -/
def build (image : List Byte) (o : BuildOptions) (draws : State) : Except BuildError State :=
  match makeMapper image with
  | .error e => .error e
  | .ok (mapper, cart) =>
    let params := paramsOf (selectMode (imageByte image 0x143) o.mode) o
    if o.bootSkip then
      .ok (State.bootSkip params o.divInit cart mapper (placeCart (mapper.ramBytes cart) image o.saveRamInit []))
    else .ok (State.bootRom params cart mapper image o draws)

end Sys2Proof.Machine
end

