-- ==== Sys2Proof/Machine/Frame.lean ====
section
/-! DEFINITION. The frame operation and what the host may do between frames (80_host_interface.md R1210 to R1232;
25_cartridge.md R300, R302, R335). None of it is part of a step. -/

namespace Sys2Proof.Machine

/-- The most steps one call can take (R1212). -/
def frameStepBound : Nat := 35112

/-- The loop of `emulate_frame()` (R1210), with at most n more steps (log 15). -/
def frameLoop : Nat → Nat → State → Host.Outcome State Fault Refusal
  | 0, _, s => .next s
  | n + 1, total, s =>
    match step s with
    | .next t =>
      let total := total + t.acct.normalCycles
      if total + t.carry ≥ Config.frameCycles then
        .next { t with carry := total + t.carry - Config.frameCycles, frameCalled := true }
      else frameLoop n total t
    | .fault e => .fault e
    | .refused e => .refused e

/-- `emulate_frame()` (R1210); the new carry is CARRY in the state it answers. -/
def emulateFrame (s : State) : Host.Outcome State Fault Refusal := frameLoop frameStepBound 0 s

/-- `header_bytes()`: image bytes 0x134 to 0x14D (R300). -/
def headerBytes (s : State) : List Byte := (List.range 26).map fun i => s.mem.read (romBase + 0x134 + i)

/-- The checksum of R302 over the header bytes. The core never checks it. -/
def headerChecksumOk (header : List Byte) : Bool :=
  decide ((0x19 + (header.map BitVec.toNat).sum) % 256 = 0)

/-- The cartridge RAM as the host reads it (R335); a no-mapper image has none (R311; log 21). -/
def saveRam (s : State) : List Byte :=
  (List.range (s.mapper.ramBytes s.cart)).map fun i => s.mem.read (cramBase + i)

/-- The clock state as the host reads it (R335). -/
def clockState (s : State) : Option Rtc :=
  match s.mapper with
  | .variantB r => some r.rtc
  | _ => none

/-- What the host may do between frame calls (R1220). -/
inductive HostAction where
  /-- Sets the joypad state. -/
  | joypad (buttons : Byte)
  /-- Replaces the cartridge RAM. -/
  | replaceSaveRam (bytes : List Byte)
  /-- Replaces the clock of variant B. -/
  | replaceClock (rtc : Rtc)
  /-- Calls `emulate_frame()`. -/
  | frame
  deriving DecidableEq, Repr

/-- Whether R1220 and R335 let the host take an action: replacements only before the first frame call. A replacement
is a value of what it replaces: all RAM_BYTES bytes, and a clock, where there is one, whose RTC_SUB is in the range of
R330. The spec does not say what any other replacement does; the model refuses it (DESIGN CHOICE, log 14). -/
def hostMay (x : HostAction) (s : State) : Bool :=
  match x with
  | .joypad _ => true
  | .replaceSaveRam bytes => !s.frameCalled && decide (bytes.length = s.mapper.ramBytes s.cart)
  | .replaceClock rtc => !s.frameCalled && (clockState s).isSome && decide (rtc.sub < Config.rtcTickCycles)
  | .frame => true

/-- The clock of variant B replaced (R335). -/
def Mapper.setClock (rtc : Rtc) : Mapper → Mapper
  | .variantB r => .variantB { r with rtc := rtc }
  | m => m

/-- The effect of a host action that R1220 allows. -/
def hostEffect (x : HostAction) (s : State) : Host.Outcome State Fault Refusal :=
  match x with
  | .joypad buttons => .next (joypadSet buttons s)
  | .replaceSaveRam bytes => .next { s with mem := s.mem.writeList cramBase bytes }
  | .replaceClock rtc => .next { s with mapper := s.mapper.setClock rtc }
  | .frame => emulateFrame s

/-- One host action; one that R1220 does not allow is refused (log 14). -/
def hostAct (x : HostAction) (s : State) : Host.Outcome State Fault Refusal :=
  if hostMay x s then hostEffect x s else .refused .hostAction

/-- A sequence of host actions (R1240). -/
def hostRun : List HostAction → State → Host.Outcome State Fault Refusal
  | [], s => .next s
  | x :: rest, s =>
    match hostAct x s with
    | .next t => hostRun rest t
    | .fault e => .fault e
    | .refused e => .refused e

end Sys2Proof.Machine
end

