-- ==== Sys2Proof/Safety.lean ====
section
/-! DEFINITION. What holds of every machine the builder makes on the boot-skip path, of every one it makes on the
boot-ROM path from legal draws, and of every state they reach: the ranges and relations the spec states of the fields. Each clause is kept by every step. -/

namespace Sys2Proof.Machine

/-- The mode of the picture engine at a line and dot (R1002). -/
def modeAt (line dot : Nat) : PpuMode :=
  if 144 ≤ line then .vblank
  else if dot < 80 then .oamScan
  else if dot < 252 then .drawing
  else .hblank

/-- The picture engine's position is legal (R1001, R1002, R1010). -/
def PpuLegal (p : Ppu) : Prop :=
  if p.lcdOn = true then p.line < 154 ∧ p.dot < 456 ∧ p.mode = modeAt p.line p.dot
  else p.line = 0 ∧ p.dot = 0 ∧ p.mode = .hblank

/-- The mapper's registers are in the ranges of R313, R323 and R330. -/
def MapperLegal : Mapper → Prop
  | .noMapper => True
  | .variantA r => r.bank1 ≠ 0
  | .variantB r => r.romb ≠ 0 ∧ r.rtc.sub < Config.rtcTickCycles

/-- The sizes are among those of R303, wide enough for this: a cartridge with RAM banks has RAM bytes, at most
16 x 8192. -/
def CartLegal (c : Cart) : Prop := c.ramBanks ≠ 0 → 0 < c.ramBytes ∧ c.ramBytes ≤ 0x20000

/-- The number of wait conditions that hold: at most one can (R860). -/
def waitCount (x : Cpu) : Nat :=
  x.locked.toNat + x.stopped.toNat + x.halted.toNat + x.haltBugPending.toNat

/-- State a monochrome machine has but cannot use (R111, R144; log 16). -/
def MonochromeIdle (s : State) : Prop :=
  s.cpu.doubleSpeed = false ∧ s.color = ColorRegs.bootSkip ∧ s.hdma = Hdma.bootSkip ∧ s.serial.fast = false

/-- The invariant. -/
structure Inv (s : State) : Prop where
  /-- Memory is in its canonical form. -/
  memory : s.mem.wf = true
  cart : CartLegal s.cart
  mapper : MapperLegal s.mapper
  ppu : PpuLegal s.ppu
  /-- The low four bits of HDMA_SRC and HDMA_DST are 0 (R153, R155). -/
  hdma : s.hdma.src.extractLsb' 0 4 = 0 ∧ s.hdma.dst.extractLsb' 0 4 = 0
  monochrome : s.params.mode = .monochrome → MonochromeIdle s
  /-- SER_BITS is 0 to 8, and only an internally clocked transfer has bits left (R180, R970). -/
  serial : s.serial.bits ≤ 8 ∧ (s.serial.bits ≠ 0 → s.serial.start = true ∧ s.serial.internal = true)
  wait : waitCount s.cpu ≤ 1
  /-- HALT_BUG_PENDING exists only when HALT_BUG is true (R109). -/
  haltBug : s.cpu.haltBugPending = true → s.params.haltBug = true
  /-- Every row handed out is a visible line of 160 colours (R1230), bit 15 of each zero (R1052). -/
  video : ∀ r ∈ s.video, r.line < 144 ∧ r.row.length = 160 ∧ ∀ c ∈ r.row, c.getLsbD 15 = false
  /-- R1211. -/
  carry : s.carry < Config.frameCycles

end Sys2Proof.Machine
end

