-- ==== Sys2Proof/Certificates/Slice0/Obligations.lean ====
section
/-! DEFINITION. The statements about the model, written from the numbered rules of the spec. The formulas here are
arithmetic on numbers, apart from the model's own operations, so that a statement says what a rule says and not what
the model does. -/

open Sys2Proof Sys2Proof.Machine

namespace Sys2Proof.Spec

/-! ## Vocabulary -/

/-- A register or flag effect: instruction i takes s to a next state that differs from s in A, F and the reported
cycles only. -/
def setsA (i : Instr) (s : State) (v : Byte) (f : Flags) (n : Nat) : Prop :=
  exec i s = .next { s with cpu.a := v, cpu.f := f, acct.cycles := n }

/-- Instruction i takes s to a next state in which register r holds v and the flags are f; the other registers, SP,
PC, the hidden flags and everything outside the processor are as in s. -/
def setsReg (i : Instr) (s : State) (r : Reg8) (v : Byte) (f : Flags) (n : Nat) : Prop :=
  ∃ t, exec i s = .next t ∧ t.cpu.getR8 r = v ∧ (∀ q, q ≠ r → t.cpu.getR8 q = s.cpu.getR8 q) ∧
    t = { s with
      cpu := { s.cpu with
        a := t.cpu.a, b := t.cpu.b, c := t.cpu.c, d := t.cpu.d, e := t.cpu.e, h := t.cpu.h, l := t.cpu.l, f := f }
      acct.cycles := n }

/-- The same for a pair of R16: the other pairs and A are as in s. -/
def setsPair (i : Instr) (s : State) (dd : Pair) (v : Word) (f : Flags) (n : Nat) : Prop :=
  ∃ t, exec i s = .next t ∧ t.cpu.getPair dd = v ∧ (∀ q, q ≠ dd → t.cpu.getPair q = s.cpu.getPair q) ∧
    t = { s with
      cpu := { s.cpu with
        b := t.cpu.b, c := t.cpu.c, d := t.cpu.d, e := t.cpu.e, h := t.cpu.h, l := t.cpu.l, sp := t.cpu.sp, f := f }
      acct.cycles := n }

/-- Instruction i takes s to the state that the write of v at a makes of it, with the registers x and n cycles. -/
def stores (i : Instr) (s : State) (a : Word) (v : Byte) (x : Cpu) (n : Nat) : Prop :=
  exec i s = .next { memWrite s a v with cpu := x, acct.cycles := n }

/-- The high and the low byte of a 16-bit value. -/
def high (v : Word) : Byte := BitVec.ofNat 8 (v.toNat / 256)
def low (v : Word) : Byte := BitVec.ofNat 8 (v.toNat % 256)

/-- The state after `push16(v)` from s (R35, R549), with the registers x: the high byte at SP - 1, then the low byte
at SP - 2. -/
def pushed (s : State) (v : Word) (x : Cpu) (n : Nat) : State :=
  { memWrite (memWrite s (s.cpu.sp - 1) (high v)) (s.cpu.sp - 2) (low v) with cpu := x, acct.cycles := n }

/-- The value `pop16()` reads (R35): the low byte at SP, the high byte at SP + 1. -/
def popped (s : State) : Word :=
  BitVec.ofNat 16 (256 * (memRead s (s.cpu.sp + 1)).toNat + (memRead s s.cpu.sp).toNat)

/-- `(v + sext_16(e)) mod 2^16` (R32, R423). -/
def plusSigned (v : Word) (e : Byte) : Word :=
  BitVec.ofNat 16 (v.toNat + e.toNat + if e.toNat < 128 then 0 else 0xFF00)

/-- `0xFF00 + n` (R520). -/
def page (n : Byte) : Word := BitVec.ofNat 16 (0xFF00 + n.toNat)

/-- The flags of an addition a + v + c (R600, R603). -/
def sumFlags (a v c : Nat) : Flags :=
  { z := decide ((a + v + c) % 256 = 0), n := false, h := decide (a % 16 + v % 16 + c > 15)
    c := decide (a + v + c > 255) }

/-- The flags of a subtraction or compare a - v - c (R601, R603). -/
def diffFlags (a v c : Nat) : Flags :=
  { z := decide ((a + 512 - v - c) % 256 = 0), n := true, h := decide (a % 16 < v % 16 + c)
    c := decide (a < v + c) }

/-- The flags of AND (`half` true), OR and XOR (R603). -/
def bitwiseFlags (r : Byte) (half : Bool) : Flags := { z := decide (r.toNat = 0), n := false, h := half, c := false }

/-- The byte with the eight bits f gives. -/
def ofBits (f : Nat → Bool) : Byte :=
  BitVec.ofNat 8 (((List.range 8).map fun i => if f i then 2 ^ i else 0).sum)

/-- ADD and ADC with operand v and carry in c. -/
def adds (i : Instr) (s : State) (v : Byte) (c n : Nat) : Prop :=
  setsA i s (BitVec.ofNat 8 (s.cpu.a.toNat + v.toNat + c)) (sumFlags s.cpu.a.toNat v.toNat c) n

/-- SUB and SBC with operand v and borrow in c. -/
def subtracts (i : Instr) (s : State) (v : Byte) (c n : Nat) : Prop :=
  setsA i s (BitVec.ofNat 8 (s.cpu.a.toNat + 512 - v.toNat - c)) (diffFlags s.cpu.a.toNat v.toNat c) n

/-- CP with operand v: A is kept. -/
def compares (i : Instr) (s : State) (v : Byte) (n : Nat) : Prop :=
  setsA i s s.cpu.a (diffFlags s.cpu.a.toNat v.toNat 0) n

/-- AND, XOR and OR with operand v, bit by bit. -/
def combines (i : Instr) (s : State) (v : Byte) (f : Bool → Bool → Bool) (half : Bool) (n : Nat) : Prop :=
  let r := ofBits fun k => f (s.cpu.a.getLsbD k) (v.getLsbD k)
  setsA i s r (bitwiseFlags r half) n

/-- The byte at HL. -/
def atHl (s : State) : Byte := memRead s (BitVec.ofNat 16 (256 * s.cpu.h.toNat + s.cpu.l.toNat))

/-- The write of v to the byte at HL, with the flags f. -/
def storesHl (i : Instr) (s : State) (v : Byte) (f : Flags) (n : Nat) : Prop :=
  stores i s (BitVec.ofNat 16 (256 * s.cpu.h.toNat + s.cpu.l.toNat)) v { s.cpu with f := f } n

/-- `shift(y, v)` of R750 with the carry c, in arithmetic: the result and the new carry. -/
def shiftValue (y : ShiftOp) (c v : Nat) : Nat × Bool :=
  match y with
  | .rlc => (2 * v % 256 + v / 128, decide (v ≥ 128))
  | .rrc => (v / 2 + 128 * (v % 2), decide (v % 2 = 1))
  | .rl => (2 * v % 256 + c, decide (v ≥ 128))
  | .rr => (v / 2 + 128 * c, decide (v % 2 = 1))
  | .sla => (2 * v % 256, decide (v ≥ 128))
  | .sra => (v / 2 + 128 * (v / 128), decide (v % 2 = 1))
  | .swap => (v / 16 + 16 * (v % 16), false)
  | .srl => (v / 2, decide (v % 2 = 1))

/-- A CB rotate or shift of register r (R760). -/
def shiftsReg (i : Instr) (s : State) (y : ShiftOp) (r : Reg8) : Prop :=
  let x := shiftValue y s.cpu.f.c.toNat (s.cpu.getR8 r).toNat
  setsReg i s r (BitVec.ofNat 8 x.1) { z := decide (x.1 = 0), n := false, h := false, c := x.2 } 8

/-- A CB rotate or shift of the byte at HL (R761). -/
def shiftsHl (i : Instr) (s : State) (y : ShiftOp) : Prop :=
  let x := shiftValue y s.cpu.f.c.toNat (atHl s).toNat
  storesHl i s (BitVec.ofNat 8 x.1) { z := decide (x.1 = 0), n := false, h := false, c := x.2 } 16

/-- Bit b of v as a number. -/
def bitOf (v b : Nat) : Nat := v / 2 ^ b % 2

/-- `cond(cc)` (R413). -/
def holds (s : State) : Cond → Bool
  | .nz => s.cpu.f.z == false
  | .z => s.cpu.f.z == true
  | .nc => s.cpu.f.c == false
  | .c => s.cpu.f.c == true

/-- `pending = IE & IF & 0x1F` is 0 (R860). -/
def nonePending (s : State) : Prop := ∀ k, k < 5 → ¬ (s.irq.ie.getLsbD k = true ∧ s.irq.iflag.getLsbD k = true)

/-- The next step of s executes an instruction (R860). -/
def executes (s : State) : Prop :=
  s.cpu.locked = false ∧ s.cpu.stopped = false ∧ (s.cpu.halted = true → ¬ nonePending s) ∧
    (s.cpu.ime = true → nonePending s)

/-! ## Steps -/

/-- A RAM-backed copy of s in which the arbiter of R220 never stands in the way: `dma_read` (R221) is `MemRead` on it. -/
def unblocked (s : State) : State := { s with params.vramBlocking := false }

/-- The three bytes a step may fetch: while HALT_BUG_PENDING is 1 the opcode fetch leaves PC where it is (R859). -/
def window (s : State) : List Byte :=
  let pc := s.cpu.pc
  if s.cpu.haltBugPending then [memRead s pc, memRead s pc, memRead s (pc + 1)]
  else [memRead s pc, memRead s (pc + 1), memRead s (pc + 2)]

/-- The state in which the fetched instruction of n bytes executes (R500, R859, R860): awake, PC past its bytes, or
one short of that after the HALT bug, and nothing charged yet. -/
def ready (s : State) (n : Nat) : State :=
  { s with
    cpu.halted := false
    cpu.haltBugPending := false
    cpu.pc := s.cpu.pc + BitVec.ofNat 16 (if s.cpu.haltBugPending then n - 1 else n)
    acct := { cycles := 0, gdmaCycles := 0, normalCycles := 0 } }

/-- The end of a step that began in s and executed an instruction into t (R856). -/
def endOfStep (s t : State) : State :=
  if s.cpu.imeDelay = true ∧ t.cpu.imeDelay = true then { t with cpu.ime := true, cpu.imeDelay := false } else t

/-- An idle step (R860): nothing of the processor's changes and four cycles pass. -/
def idles (s : State) : Prop :=
  step s = .next (advanceUnits s.cpu.doubleSpeed
    { s with acct := { cycles := 4, gdmaCycles := 0, normalCycles := 0 } })

/-- The next step of s services interrupt k: the pending one of the smallest number (R860, R903, R904, R910). -/
def services (s : State) (k : Nat) : Prop :=
  s.cpu.locked = false ∧ s.cpu.stopped = false ∧ s.cpu.ime = true ∧ k < 5 ∧
    s.irq.ie.getLsbD k = true ∧ s.irq.iflag.getLsbD k = true ∧
    ∀ j, j < k → ¬ (s.irq.ie.getLsbD j = true ∧ s.irq.iflag.getLsbD j = true)

/-- The normal-speed cycles of the first n steps from s (R1210). -/
def elapsed : Nat → State → Nat
  | 0, _ => 0
  | n + 1, s =>
    match step s with
    | .next t => t.acct.normalCycles + elapsed n t
    | _ => 0

/-- A button that goes from released to pressed in a selected group (R950). -/
def selectedPress (s : State) (buttons : Byte) : Prop :=
  ∃ b, b < 8 ∧ buttons.getLsbD b = true ∧ s.joypad.pressed.getLsbD b = false ∧
    (if b < 4 then s.joypad.selDir else s.joypad.selAction) = false

/-! ## Tables over all instructions -/

/-- PREFIX CB stands for the CB form its second byte selects (R857). -/
def form : Instr → Instr
  | .prefixCb op2 => decodeCb op2
  | i => i

/-- The condition of a conditional form is false. -/
def untaken (i : Instr) (s : State) : Bool :=
  match i with
  | .jrCcE cc _ => !holds s cc
  | .jpCcNn cc _ => !holds s cc
  | .callCcNn cc _ => !holds s cc
  | .retCc cc => !holds s cc
  | _ => false

/-- What an instruction does to a flag (R114): keep it, write a constant, or write it from the result. -/
inductive FlagEffect where
  | keep | zero | one | result
  deriving DecidableEq, Repr

/-- The flag after is what the effect says of the flag before. -/
def FlagEffect.allows (e : FlagEffect) (before after : Bool) : Prop :=
  match e with
  | .keep => after = before
  | .zero => after = false
  | .one => after = true
  | .result => True

/-- A row of R114: Zf, Nf, Hf, Cf. -/
structure FlagRow where
  z : FlagEffect
  n : FlagEffect
  h : FlagEffect
  c : FlagEffect
  deriving DecidableEq, Repr

/-- The table of R114, for every form but POP AF. -/
def flagRow : Instr → FlagRow
  | .addAR _ | .addAAtHl | .addAN _ | .adcAR _ | .adcAAtHl | .adcAN _ => ⟨.result, .zero, .result, .result⟩
  | .subR _ | .subAtHl | .subN _ | .sbcAR _ | .sbcAAtHl | .sbcAN _ | .cpR _ | .cpAtHl | .cpN _ =>
    ⟨.result, .one, .result, .result⟩
  | .andR _ | .andAtHl | .andN _ => ⟨.result, .zero, .one, .zero⟩
  | .xorR _ | .xorAtHl | .xorN _ | .orR _ | .orAtHl | .orN _ => ⟨.result, .zero, .zero, .zero⟩
  | .incR _ | .incAtHl => ⟨.result, .zero, .result, .keep⟩
  | .decR _ | .decAtHl => ⟨.result, .one, .result, .keep⟩
  | .daa => ⟨.result, .keep, .zero, .result⟩
  | .cpl => ⟨.keep, .one, .one, .keep⟩
  | .scf => ⟨.keep, .zero, .zero, .one⟩
  | .ccf => ⟨.keep, .zero, .zero, .result⟩
  | .addHlDd _ => ⟨.keep, .zero, .result, .result⟩
  | .addSpE _ | .ldHlSpE _ => ⟨.zero, .zero, .result, .result⟩
  | .rlca | .rrca | .rla | .rra => ⟨.zero, .zero, .zero, .result⟩
  | .rlcR _ | .rlcAtHl | .rrcR _ | .rrcAtHl | .rlR _ | .rlAtHl | .rrR _ | .rrAtHl | .slaR _ | .slaAtHl | .sraR _
  | .sraAtHl | .srlR _ | .srlAtHl => ⟨.result, .zero, .zero, .result⟩
  | .swapR _ | .swapAtHl => ⟨.result, .zero, .zero, .zero⟩
  | .bitBR _ _ | .bitBAtHl _ => ⟨.result, .zero, .one, .keep⟩
  | _ => ⟨.keep, .keep, .keep, .keep⟩

/-- The 8-bit registers of a pair. -/
def halves : Pair → List Reg8
  | .bc => [.b, .c]
  | .de => [.d, .e]
  | .hl => [.h, .l]
  | .sp => []

/-- The 8-bit registers an instruction may change (R113). -/
def writtenRegs : Instr → List Reg8
  | .ldDdNn dd _ | .incDd dd | .decDd dd => halves dd
  | .incR r | .decR r | .ldRN r _ | .ldRR r _ | .ldRAtHl r | .rlcR r | .rrcR r | .rlR r | .rrR r | .slaR r | .sraR r
  | .swapR r | .srlR r | .resBR _ r | .setBR _ r => [r]
  | .ldAtHlIncA | .ldAtHlDecA | .addHlDd _ | .ldHlSpE _ => [.h, .l]
  | .ldAAtHlInc | .ldAAtHlDec => [.a, .h, .l]
  | .popQq .bc => [.b, .c]
  | .popQq .de => [.d, .e]
  | .popQq .hl => [.h, .l]
  | .popQq .af | .popAf => [.a]
  | .rlca | .rrca | .rla | .rra | .daa | .cpl | .ldAAtBc | .ldAAtDe | .addAR _ | .addAAtHl | .addAN _ | .adcAR _
  | .adcAAtHl | .adcAN _ | .subR _ | .subAtHl | .subN _ | .sbcAR _ | .sbcAAtHl | .sbcAN _ | .andR _ | .andAtHl
  | .andN _ | .xorR _ | .xorAtHl | .xorN _ | .orR _ | .orAtHl | .orN _ | .ldhAAtN _ | .ldhAAtC | .ldAAtNn _ => [.a]
  | _ => []

/-- The instruction may change SP (R113). -/
def writesSp : Instr → Bool
  | .ldDdNn .sp _ | .incDd .sp | .decDd .sp | .ldSpHl | .addSpE _ | .pushQq _ | .popQq _ | .popAf | .callNn _
  | .callCcNn _ _ | .ret | .retCc _ | .reti | .rstT _ => true
  | _ => false

/-- The instruction may change PC beyond the fetch of its bytes (R800 to R810). -/
def writesPc : Instr → Bool
  | .jpNn _ | .jpCcNn _ _ | .jpHl | .jrE _ | .jrCcE _ _ | .callNn _ | .callCcNn _ _ | .ret | .retCc _ | .reti
  | .rstT _ => true
  | _ => false

/-- The addresses an instruction executed in s stores to, in order (R520, R549). -/
def storedAt (i : Instr) (s : State) : List Word :=
  let hl := BitVec.ofNat 16 (256 * s.cpu.h.toNat + s.cpu.l.toNat)
  let stack := [s.cpu.sp - 1, s.cpu.sp - 2]
  match i with
  | .ldAtBcA => [BitVec.ofNat 16 (256 * s.cpu.b.toNat + s.cpu.c.toNat)]
  | .ldAtDeA => [BitVec.ofNat 16 (256 * s.cpu.d.toNat + s.cpu.e.toNat)]
  | .ldAtHlIncA | .ldAtHlDecA | .ldAtHlR _ | .ldAtHlN _ | .incAtHl | .decAtHl | .rlcAtHl | .rrcAtHl | .rlAtHl
  | .rrAtHl | .slaAtHl | .sraAtHl | .swapAtHl | .srlAtHl | .resBAtHl _ | .setBAtHl _ => [hl]
  | .ldAtNnA nn => [nn]
  | .ldAtNnSp nn => [nn, nn + 1]
  | .ldhAtNA n => [page n]
  | .ldhAtCA => [page s.cpu.c]
  | .pushQq _ | .callNn _ | .rstT _ => stack
  | .callCcNn cc _ => if holds s cc then stack else []
  | _ => []

/-- A row of R1150: the bytes, the cycles, and the cycles when a condition is false. -/
structure TimingRow where
  bytes : Nat
  cycles : Nat
  untaken : Nat
  deriving DecidableEq, Repr

/-- The table of R1150. PREFIX CB takes the row of its CB form; STOP's row is for a STOP that does not switch the
speed. -/
def timing : Instr → TimingRow
  | .nop | .incR _ | .decR _ | .rlca | .rrca | .rla | .rra | .daa | .cpl | .scf | .ccf | .ldRR _ _ | .halt | .addAR _
  | .adcAR _ | .subR _ | .sbcAR _ | .andR _ | .xorR _ | .orR _ | .cpR _ | .jpHl | .di | .ei | .illegalD3 | .illegalDB
  | .illegalDD | .illegalE3 | .illegalE4 | .illegalEB | .illegalEC | .illegalED | .illegalF4 | .illegalFC
  | .illegalFD => ⟨1, 4, 4⟩
  | .ldAtBcA | .ldAtDeA | .ldAtHlIncA | .ldAtHlDecA | .incDd _ | .addHlDd _ | .ldAAtBc | .ldAAtDe | .ldAAtHlInc
  | .ldAAtHlDec | .decDd _ | .ldRAtHl _ | .ldAtHlR _ | .addAAtHl | .adcAAtHl | .subAtHl | .sbcAAtHl | .andAtHl
  | .xorAtHl | .orAtHl | .cpAtHl | .ldhAtCA | .ldhAAtC | .ldSpHl => ⟨1, 8, 8⟩
  | .incAtHl | .decAtHl | .popQq _ | .popAf => ⟨1, 12, 12⟩
  | .pushQq _ | .rstT _ | .ret | .reti => ⟨1, 16, 16⟩
  | .retCc _ => ⟨1, 20, 8⟩
  | .stop _ => ⟨2, 4, 4⟩
  | .ldRN _ _ | .addAN _ | .adcAN _ | .subN _ | .sbcAN _ | .andN _ | .xorN _ | .orN _ | .cpN _ | .rlcR _ | .rrcR _
  | .rlR _ | .rrR _ | .slaR _ | .sraR _ | .swapR _ | .srlR _ | .bitBR _ _ | .resBR _ _ | .setBR _ _ => ⟨2, 8, 8⟩
  | .jrCcE _ _ => ⟨2, 12, 8⟩
  | .ldAtHlN _ | .jrE _ | .ldhAtNA _ | .ldhAAtN _ | .ldHlSpE _ | .bitBAtHl _ => ⟨2, 12, 12⟩
  | .addSpE _ | .rlcAtHl | .rrcAtHl | .rlAtHl | .rrAtHl | .slaAtHl | .sraAtHl | .swapAtHl | .srlAtHl | .resBAtHl _
  | .setBAtHl _ => ⟨2, 16, 16⟩
  | .ldDdNn _ _ => ⟨3, 12, 12⟩
  | .jpCcNn _ _ => ⟨3, 16, 12⟩
  | .jpNn _ | .ldAtNnA _ | .ldAAtNn _ => ⟨3, 16, 16⟩
  | .ldAtNnSp _ => ⟨3, 20, 20⟩
  | .callCcNn _ _ => ⟨3, 24, 12⟩
  | .callNn _ => ⟨3, 24, 24⟩
  | .prefixCb _ => ⟨2, 8, 8⟩

/-! ## Units -/

/-- The cycles of TIMA's period for TAC.RATE (R941). -/
def timerPeriod (tac : Nat) : Nat := [1024, 16, 64, 256].getD (tac % 4) 0

/-- The dot of the frame the picture engine is at. -/
def framePosition (p : Ppu) : Nat := 456 * p.line + p.dot

/-- The enabled STAT triggers at a dot of the frame (R1004, R1020, R1021). -/
def statTriggers (p : Ppu) (q : Nat) : Prop :=
  (p.stat.getLsbD 0 = true ∧ q % 456 = 252 ∧ q / 456 < 144) ∨
  (p.stat.getLsbD 1 = true ∧ q = 456 * 144) ∨
  (p.stat.getLsbD 2 = true ∧ q % 456 = 0 ∧ q / 456 < 144) ∨
  (p.stat.getLsbD 3 = true ∧ q % 456 = 0 ∧ q / 456 = p.lyc.toNat)

/-- The seconds the live clock shows, from 0 to 512 days (R334). -/
def clockSeconds (r : RtcRegs) : Nat :=
  86400 * (256 * r.dayHigh.toNat + r.dl.toNat) + 3600 * r.h.toNat + 60 * r.m.toNat + r.s.toNat

/-- A clock register as `rtc_read` shows it (R331). -/
def clockByte (r : RtcRegs) (sel : Nat) : Byte :=
  BitVec.ofNat 8 (match sel with
    | 8 => r.s.toNat
    | 9 => r.m.toNat
    | 10 => r.h.toNat
    | 11 => r.dl.toNat
    | _ => r.dayHigh.toNat + 64 * r.halt.toNat + 128 * r.dayCarry.toNat)

/-- The bits of a clock register that are stored: 6, 6, 5, 8, and bits 0, 6 and 7 of the last (R330, R333). -/
def clockMask (sel : Nat) (v : Byte) : Byte :=
  BitVec.ofNat 8 (match sel with
    | 8 => v.toNat % 64
    | 9 => v.toNat % 64
    | 10 => v.toNat % 32
    | 11 => v.toNat
    | _ => v.toNat % 2 + v.toNat / 64 * 64)

/-- What a transfer shifts in: SERIAL_IN of its number (R19), a function written out or any function. -/
def serialInput (s : State) : Byte :=
  match s.params.serialIn with
  | .listed first rest => first.getD s.serial.count rest
  | .partner id => Config.serialIn id s.serial.count

/-- The mapper m with the live clock and RTC_SUB of m' (R330, R334). -/
def withLiveClock (m m' : Mapper) : Mapper :=
  match m, m' with
  | .variantB r, .variantB u => .variantB { r with rtc := { r.rtc with live := u.rtc.live, sub := u.rtc.sub } }
  | m, _ => m

/-- The bytes of cartridge RAM the host sees: none without a mapper (R311; the model's choice, log 21). -/
def ramSize (s : State) : Nat :=
  match s.mapper with
  | .noMapper => 0
  | _ => s.cart.ramBytes

/-- Byte k of the image, and byte k of the cartridge RAM: their places in the store are the model's (log 3). -/
def romByte (s : State) (k : Nat) : Byte := s.mem.read (romBase + k)
def cramByte (s : State) (k : Nat) : Byte := s.mem.read (cramBase + k)

end Sys2Proof.Spec

/-! ## Encoding and decoding -/

/-- O1. Twenty words written out from the patterns of R430 and R431 decode to the instructions they stand for. -/
def Obligations.SampleWords : Prop :=
  decode [0b00000000] = .ok (.nop, []) ∧
  decode [0b00100001, 0x34, 0x12] = .ok (.ldDdNn .hl 0x1234, []) ∧
  decode [0b00010010] = .ok (.ldAtDeA, []) ∧
  decode [0b00101100] = .ok (.incR .l, []) ∧
  decode [0b00111110, 0x5A] = .ok (.ldRN .a 0x5A, []) ∧
  decode [0b00010000, 0x77] = .ok (.stop 0x77, []) ∧
  decode [0b00101000, 0xFE] = .ok (.jrCcE .z 0xFE, []) ∧
  decode [0b01000001] = .ok (.ldRR .b .c, []) ∧
  decode [0b01110110] = .ok (.halt, []) ∧
  decode [0b10011110] = .ok (.sbcAAtHl, []) ∧
  decode [0b10111010] = .ok (.cpR .d, []) ∧
  decode [0b11110001] = .ok (.popAf, []) ∧
  decode [0b11010101] = .ok (.pushQq .de, []) ∧
  decode [0b11011100, 0x00, 0x02] = .ok (.callCcNn .c 0x0200, []) ∧
  decode [0b11101111] = .ok (.rstT 5, []) ∧
  decode [0b11101000, 0x90] = .ok (.addSpE 0x90, []) ∧
  decode [0b11010011] = .ok (.illegalD3, []) ∧
  decode [0xCB, 0b00110111] = .ok (.swapR .a, []) ∧
  decode [0xCB, 0b01111100] = .ok (.bitBR 7 .h, []) ∧
  decode [0xCB, 0b11001011] = .ok (.setBR 1 .e, [])

/-- O2. Decoding the bytes of a well-formed instruction gives that instruction, with every operand at every value,
and leaves the bytes that follow. -/
def Obligations.DecodeOfEncode : Prop :=
  ∀ (i : Instr) (rest : List Byte), i.WellFormed → decode (encode i ++ rest) = .ok (i, rest)

/-- O3. Every three bytes start an instruction, its length is fixed by the first byte, and its encoding is those
bytes again: each word has one meaning. -/
def Obligations.EncodeOfDecode : Prop :=
  ∀ op b1 b2 : Byte, (decode3 op b1 b2).WellFormed ∧
    encode (decode3 op b1 b2) = [op, b1, b2].take (opcodeLength op) ∧
    decode [op, b1, b2] = .ok (decode3 op b1 b2, [op, b1, b2].drop (opcodeLength op))

/-- O4. Every opcode selects exactly one row of R430, the row of the form decoded, and every byte after 0xCB exactly
one row of R431. -/
def Obligations.OpcodeSelectsOneRow : Prop :=
  ∀ op b1 b2 : Byte,
    selectedRows oneByteRows op = [(decodeFirst op b1 b2).rowIndex] ∧
    selectedRows cbRows op = [(decodeCb op).rowIndex - 94]

/-- O5. The prefix 0xCB runs the CB form that its second byte selects, and takes that form's 8, 12 or 16 cycles. -/
def Obligations.PrefixRunsCbForm : Prop :=
  ∀ (op2 : Byte) (s : State), ∃ t, exec (.prefixCb op2) s = .next t ∧ exec (decodeCb op2) s = .next t ∧
    (t.acct.cycles = 8 ∨ t.acct.cycles = 12 ∨ t.acct.cycles = 16)

/-! ## Loads -/

/-- O6. LD r,r' and LD r,n. -/
def Obligations.LoadRegister : Prop :=
  ∀ (r r' : Reg8) (n : Byte) (s : State),
    Spec.setsReg (.ldRR r r') s r (s.cpu.getR8 r') s.cpu.f 4 ∧
    Spec.setsReg (.ldRN r n) s r n s.cpu.f 8

/-- O7. The loads of a register from memory, with the address of R520, and HL after (HL+) and (HL-). -/
def Obligations.LoadFromMemory : Prop :=
  ∀ (r : Reg8) (n : Byte) (nn : Word) (s : State),
    let bc := BitVec.ofNat 16 (256 * s.cpu.b.toNat + s.cpu.c.toNat)
    let de := BitVec.ofNat 16 (256 * s.cpu.d.toNat + s.cpu.e.toNat)
    let hl := 256 * s.cpu.h.toNat + s.cpu.l.toNat
    Spec.setsReg (.ldRAtHl r) s r (Spec.atHl s) s.cpu.f 8 ∧
    Spec.setsA .ldAAtBc s (memRead s bc) s.cpu.f 8 ∧
    Spec.setsA .ldAAtDe s (memRead s de) s.cpu.f 8 ∧
    Spec.setsA (.ldAAtNn nn) s (memRead s nn) s.cpu.f 16 ∧
    Spec.setsA .ldhAAtC s (memRead s (Spec.page s.cpu.c)) s.cpu.f 8 ∧
    Spec.setsA (.ldhAAtN n) s (memRead s (Spec.page n)) s.cpu.f 12 ∧
    exec .ldAAtHlInc s = .next { s with
      cpu.a := Spec.atHl s
      cpu.h := BitVec.ofNat 8 ((hl + 1) / 256), cpu.l := BitVec.ofNat 8 ((hl + 1) % 256), acct.cycles := 8 } ∧
    exec .ldAAtHlDec s = .next { s with
      cpu.a := Spec.atHl s
      cpu.h := BitVec.ofNat 8 ((hl + 65535) / 256), cpu.l := BitVec.ofNat 8 ((hl + 65535) % 256), acct.cycles := 8 }

/-- O8. The stores of a register to memory: what the write does is the dispatcher's (R205), the flags are kept, and
HL changes after (HL+) and (HL-) only. -/
def Obligations.StoreToMemory : Prop :=
  ∀ (r : Reg8) (n : Byte) (nn : Word) (s : State),
    let bc := BitVec.ofNat 16 (256 * s.cpu.b.toNat + s.cpu.c.toNat)
    let de := BitVec.ofNat 16 (256 * s.cpu.d.toNat + s.cpu.e.toNat)
    let hl := 256 * s.cpu.h.toNat + s.cpu.l.toNat
    Spec.storesHl (.ldAtHlR r) s (s.cpu.getR8 r) s.cpu.f 8 ∧
    Spec.storesHl (.ldAtHlN n) s n s.cpu.f 12 ∧
    Spec.stores .ldAtBcA s bc s.cpu.a s.cpu 8 ∧
    Spec.stores .ldAtDeA s de s.cpu.a s.cpu 8 ∧
    Spec.stores (.ldAtNnA nn) s nn s.cpu.a s.cpu 16 ∧
    Spec.stores .ldhAtCA s (Spec.page s.cpu.c) s.cpu.a s.cpu 8 ∧
    Spec.stores (.ldhAtNA n) s (Spec.page n) s.cpu.a s.cpu 12 ∧
    Spec.stores .ldAtHlIncA s (BitVec.ofNat 16 hl) s.cpu.a
      { s.cpu with h := BitVec.ofNat 8 ((hl + 1) / 256), l := BitVec.ofNat 8 ((hl + 1) % 256) } 8 ∧
    Spec.stores .ldAtHlDecA s (BitVec.ofNat 16 hl) s.cpu.a
      { s.cpu with h := BitVec.ofNat 8 ((hl + 65535) / 256), l := BitVec.ofNat 8 ((hl + 65535) % 256) } 8

/-- O9. LD dd,nn, LD SP,HL, and LD (nn),SP with the low byte first. -/
def Obligations.Load16 : Prop :=
  ∀ (dd : Pair) (nn : Word) (s : State),
    Spec.setsPair (.ldDdNn dd nn) s dd nn s.cpu.f 12 ∧
    exec .ldSpHl s = .next { s with
      cpu.sp := BitVec.ofNat 16 (256 * s.cpu.h.toNat + s.cpu.l.toNat), acct.cycles := 8 } ∧
    exec (.ldAtNnSp nn) s = .next
      { memWrite (memWrite s nn (Spec.low s.cpu.sp)) (nn + 1) (Spec.high s.cpu.sp) with acct.cycles := 20 }

/-- O10. PUSH qq, and POP qq for the four pairs; POP AF keeps the upper four bits of the low byte only, as the
flags. -/
def Obligations.PushPop : Prop :=
  ∀ s : State,
    (∀ hi lo qq, (qq, hi, lo) ∈ [(StackPair.bc, s.cpu.b, s.cpu.c), (.de, s.cpu.d, s.cpu.e), (.hl, s.cpu.h, s.cpu.l),
        (.af, s.cpu.a, s.cpu.f.toByte)] →
      exec (.pushQq qq) s = .next
        (Spec.pushed s (BitVec.ofNat 16 (256 * hi.toNat + lo.toNat)) { s.cpu with sp := s.cpu.sp - 2 } 16)) ∧
    (let v := Spec.popped s
     exec (.popQq .bc) s = .next { s with
       cpu.b := Spec.high v, cpu.c := Spec.low v, cpu.sp := s.cpu.sp + 2, acct.cycles := 12 } ∧
     exec (.popQq .de) s = .next { s with
       cpu.d := Spec.high v, cpu.e := Spec.low v, cpu.sp := s.cpu.sp + 2, acct.cycles := 12 } ∧
     exec (.popQq .hl) s = .next { s with
       cpu.h := Spec.high v, cpu.l := Spec.low v, cpu.sp := s.cpu.sp + 2, acct.cycles := 12 } ∧
     exec .popAf s = .next { s with
       cpu.a := Spec.high v, cpu.sp := s.cpu.sp + 2, acct.cycles := 12
       cpu.f := { z := v.getLsbD 7, n := v.getLsbD 6, h := v.getLsbD 5, c := v.getLsbD 4 } })

/-- O11. Where the two bytes below SP are RAM, a POP after a PUSH gives the pair pushed, whichever pair takes it, and
SP as it was. -/
def Obligations.PopAfterPush : Prop :=
  ∀ (qq qq' : StackPair) (s t : State) (j k : Nat), storeCell s (s.cpu.sp - 1) = some j →
    storeCell s (s.cpu.sp - 2) = some k → j ≠ k → exec (.pushQq qq) s = .next t → qq' ≠ .af →
    ∃ u, exec (.popQq qq') t = .next u ∧ u.cpu.getStackPair qq' = s.cpu.getStackPair qq ∧ u.cpu.sp = s.cpu.sp ∧
      (∃ v, exec .popAf t = .next v ∧ v.cpu.sp = s.cpu.sp ∧
        v.cpu.a = Spec.high (s.cpu.getStackPair qq) ∧
        v.cpu.f.toByte.toNat = (s.cpu.getStackPair qq).toNat % 256 / 16 * 16)

/-- O12. ADD SP,e and LD HL,SP+e: the signed offset is added, and both carries are those of the low byte. -/
def Obligations.SpPlusOffset : Prop :=
  ∀ (e : Byte) (s : State),
    let v := Spec.plusSigned s.cpu.sp e
    let f : Flags := { z := false, n := false, h := decide (s.cpu.sp.toNat % 16 + e.toNat % 16 > 15)
                       c := decide (s.cpu.sp.toNat % 256 + e.toNat > 255) }
    exec (.addSpE e) s = .next { s with cpu.sp := v, cpu.f := f, acct.cycles := 16 } ∧
    exec (.ldHlSpE e) s = .next { s with
      cpu.h := Spec.high v, cpu.l := Spec.low v, cpu.f := f, acct.cycles := 12 }

/-! ## Arithmetic and logic -/

/-- O13. ADD and ADC in their register, (HL) and immediate forms. -/
def Obligations.AddAdc : Prop :=
  ∀ (r : Reg8) (n : Byte) (s : State),
    Spec.adds (.addAR r) s (s.cpu.getR8 r) 0 4 ∧ Spec.adds .addAAtHl s (Spec.atHl s) 0 8 ∧
    Spec.adds (.addAN n) s n 0 8 ∧
    Spec.adds (.adcAR r) s (s.cpu.getR8 r) s.cpu.f.c.toNat 4 ∧
    Spec.adds .adcAAtHl s (Spec.atHl s) s.cpu.f.c.toNat 8 ∧
    Spec.adds (.adcAN n) s n s.cpu.f.c.toNat 8

/-- O14. SUB, SBC and CP in their register, (HL) and immediate forms. -/
def Obligations.SubSbcCp : Prop :=
  ∀ (r : Reg8) (n : Byte) (s : State),
    Spec.subtracts (.subR r) s (s.cpu.getR8 r) 0 4 ∧ Spec.subtracts .subAtHl s (Spec.atHl s) 0 8 ∧
    Spec.subtracts (.subN n) s n 0 8 ∧
    Spec.subtracts (.sbcAR r) s (s.cpu.getR8 r) s.cpu.f.c.toNat 4 ∧
    Spec.subtracts .sbcAAtHl s (Spec.atHl s) s.cpu.f.c.toNat 8 ∧
    Spec.subtracts (.sbcAN n) s n s.cpu.f.c.toNat 8 ∧
    Spec.compares (.cpR r) s (s.cpu.getR8 r) 4 ∧ Spec.compares .cpAtHl s (Spec.atHl s) 8 ∧
    Spec.compares (.cpN n) s n 8

/-- O15. AND, XOR and OR, bit by bit, in their register, (HL) and immediate forms. -/
def Obligations.AndXorOr : Prop :=
  ∀ (r : Reg8) (n : Byte) (s : State),
    Spec.combines (.andR r) s (s.cpu.getR8 r) and true 4 ∧ Spec.combines .andAtHl s (Spec.atHl s) and true 8 ∧
    Spec.combines (.andN n) s n and true 8 ∧
    Spec.combines (.xorR r) s (s.cpu.getR8 r) xor false 4 ∧ Spec.combines .xorAtHl s (Spec.atHl s) xor false 8 ∧
    Spec.combines (.xorN n) s n xor false 8 ∧
    Spec.combines (.orR r) s (s.cpu.getR8 r) or false 4 ∧ Spec.combines .orAtHl s (Spec.atHl s) or false 8 ∧
    Spec.combines (.orN n) s n or false 8

/-- O16. INC and DEC of a register and of the byte at HL: the carry is kept. -/
def Obligations.IncDec8 : Prop :=
  ∀ (r : Reg8) (s : State),
    let up (v : Byte) : Flags :=
      { z := decide (v.toNat = 255), n := false, h := decide (v.toNat % 16 = 15), c := s.cpu.f.c }
    let down (v : Byte) : Flags :=
      { z := decide (v.toNat = 1), n := true, h := decide (v.toNat % 16 = 0), c := s.cpu.f.c }
    let v := s.cpu.getR8 r
    let m := Spec.atHl s
    Spec.setsReg (.incR r) s r (BitVec.ofNat 8 (v.toNat + 1)) (up v) 4 ∧
    Spec.setsReg (.decR r) s r (BitVec.ofNat 8 (v.toNat + 255)) (down v) 4 ∧
    Spec.storesHl .incAtHl s (BitVec.ofNat 8 (m.toNat + 1)) (up m) 12 ∧
    Spec.storesHl .decAtHl s (BitVec.ofNat 8 (m.toNat + 255)) (down m) 12

/-- O17. DAA on every A and every flags, CPL, SCF and CCF. -/
def Obligations.AccumulatorAdjust : Prop :=
  ∀ s : State,
    let a := s.cpu.a.toNat
    let f := s.cpu.f
    let tens := f.c || (!f.n && decide (a > 0x99))
    let units := f.h || (!f.n && decide (a % 16 > 9))
    let fix := (if tens then 0x60 else 0) + if units then 0x06 else 0
    let r := if f.n then (a + 256 - fix) % 256 else (a + fix) % 256
    Spec.setsA .daa s (BitVec.ofNat 8 r) { z := decide (r = 0), n := f.n, h := false, c := tens } 4 ∧
    Spec.setsA .cpl s (BitVec.ofNat 8 (255 - a)) { f with n := true, h := true } 4 ∧
    Spec.setsA .scf s s.cpu.a { f with n := false, h := false, c := true } 4 ∧
    Spec.setsA .ccf s s.cpu.a { f with n := false, h := false, c := !f.c } 4

/-- O18. DAA makes the sum and the difference of two two-digit decimal numbers decimal again, with the carry or
borrow of the decimal operation: the purpose of R650. -/
def Obligations.DaaIsDecimal : Prop :=
  ∀ (x y : Nat) (s t u : State), x < 100 → y < 100 → s.cpu.a.toNat = x / 10 * 16 + x % 10 →
    (exec (.addAN (BitVec.ofNat 8 (y / 10 * 16 + y % 10))) s = .next t → exec .daa t = .next u →
      u.cpu.a.toNat = (x + y) % 100 / 10 * 16 + (x + y) % 10 ∧ u.cpu.f.c = decide (x + y ≥ 100)) ∧
    (exec (.subN (BitVec.ofNat 8 (y / 10 * 16 + y % 10))) s = .next t → exec .daa t = .next u →
      u.cpu.a.toNat = (x + 100 - y) % 100 / 10 * 16 + (x + 100 - y) % 10 ∧ u.cpu.f.c = decide (x < y))

/-- O19. ADD HL,dd with its two carries, and INC dd and DEC dd, which write no flag. -/
def Obligations.Arithmetic16 : Prop :=
  ∀ (dd : Pair) (s : State),
    let v := (s.cpu.getPair dd).toNat
    let hl := (s.cpu.getPair .hl).toNat
    Spec.setsPair (.addHlDd dd) s .hl (BitVec.ofNat 16 (hl + v))
      { z := s.cpu.f.z, n := false, h := decide (hl % 4096 + v % 4096 > 4095), c := decide (hl + v > 65535) } 8 ∧
    Spec.setsPair (.incDd dd) s dd (BitVec.ofNat 16 (v + 1)) s.cpu.f 8 ∧
    Spec.setsPair (.decDd dd) s dd (BitVec.ofNat 16 (v + 65535)) s.cpu.f 8

/-! ## Rotates, shifts and bits -/

/-- O20. RLCA, RRCA, RLA and RRA: A is rotated and Zf is always cleared. -/
def Obligations.AccumulatorRotates : Prop :=
  ∀ s : State, ∀ p ∈ [(Instr.rlca, ShiftOp.rlc), (.rrca, .rrc), (.rla, .rl), (.rra, .rr)],
    let x := Spec.shiftValue p.2 s.cpu.f.c.toNat s.cpu.a.toNat
    Spec.setsA p.1 s (BitVec.ofNat 8 x.1) { z := false, n := false, h := false, c := x.2 } 4

/-- O21. The CB rotates and shifts of a register. -/
def Obligations.ShiftRegister : Prop :=
  ∀ (r : Reg8) (s : State),
    Spec.shiftsReg (.rlcR r) s .rlc r ∧ Spec.shiftsReg (.rrcR r) s .rrc r ∧
    Spec.shiftsReg (.rlR r) s .rl r ∧ Spec.shiftsReg (.rrR r) s .rr r ∧
    Spec.shiftsReg (.slaR r) s .sla r ∧ Spec.shiftsReg (.sraR r) s .sra r ∧
    Spec.shiftsReg (.swapR r) s .swap r ∧ Spec.shiftsReg (.srlR r) s .srl r

/-- O22. The CB rotates and shifts of the byte at HL. -/
def Obligations.ShiftMemory : Prop :=
  ∀ s : State,
    Spec.shiftsHl .rlcAtHl s .rlc ∧ Spec.shiftsHl .rrcAtHl s .rrc ∧
    Spec.shiftsHl .rlAtHl s .rl ∧ Spec.shiftsHl .rrAtHl s .rr ∧
    Spec.shiftsHl .slaAtHl s .sla ∧ Spec.shiftsHl .sraAtHl s .sra ∧
    Spec.shiftsHl .swapAtHl s .swap ∧ Spec.shiftsHl .srlAtHl s .srl

/-- O23. BIT, RES and SET of a register and of the byte at HL; BIT keeps Cf, RES and SET keep every flag, and the
write of RES and SET happens whatever the bit was. -/
def Obligations.BitResSet : Prop :=
  ∀ (b : BitVec 3) (r : Reg8) (s : State),
    let v := (s.cpu.getR8 r).toNat
    let m := (Spec.atHl s).toNat
    let k := b.toNat
    let test (x : Nat) : Flags := { z := decide (Spec.bitOf x k = 0), n := false, h := true, c := s.cpu.f.c }
    let clear (x : Nat) : Byte := BitVec.ofNat 8 (x - Spec.bitOf x k * 2 ^ k)
    let set (x : Nat) : Byte := BitVec.ofNat 8 (x + (1 - Spec.bitOf x k) * 2 ^ k)
    Spec.setsA (.bitBR b r) s s.cpu.a (test v) 8 ∧ Spec.setsA (.bitBAtHl b) s s.cpu.a (test m) 12 ∧
    Spec.setsReg (.resBR b r) s r (clear v) s.cpu.f 8 ∧ Spec.storesHl (.resBAtHl b) s (clear m) s.cpu.f 16 ∧
    Spec.setsReg (.setBR b r) s r (set v) s.cpu.f 8 ∧ Spec.storesHl (.setBAtHl b) s (set m) s.cpu.f 16

/-! ## Control transfer -/

/-- O24. The jumps: the target, and for a false condition nothing but the shorter time. -/
def Obligations.Jumps : Prop :=
  ∀ (cc : Cond) (e : Byte) (nn : Word) (s : State),
    exec (.jpNn nn) s = .next { s with cpu.pc := nn, acct.cycles := 16 } ∧
    exec .jpHl s = .next { s with
      cpu.pc := BitVec.ofNat 16 (256 * s.cpu.h.toNat + s.cpu.l.toNat), acct.cycles := 4 } ∧
    exec (.jrE e) s = .next { s with cpu.pc := Spec.plusSigned s.cpu.pc e, acct.cycles := 12 } ∧
    exec (.jpCcNn cc nn) s = .next
      (if Spec.holds s cc then { s with cpu.pc := nn, acct.cycles := 16 } else { s with acct.cycles := 12 }) ∧
    exec (.jrCcE cc e) s = .next
      (if Spec.holds s cc then { s with cpu.pc := Spec.plusSigned s.cpu.pc e, acct.cycles := 12 }
       else { s with acct.cycles := 8 })

/-- O25. The calls and restarts: PC is pushed and the target taken; for a false condition nothing is pushed. -/
def Obligations.Calls : Prop :=
  ∀ (cc : Cond) (nn : Word) (t : BitVec 3) (s : State),
    let jump (target : Word) : Cpu := { s.cpu with sp := s.cpu.sp - 2, pc := target }
    exec (.callNn nn) s = .next (Spec.pushed s s.cpu.pc (jump nn) 24) ∧
    exec (.callCcNn cc nn) s = .next
      (if Spec.holds s cc then Spec.pushed s s.cpu.pc (jump nn) 24 else { s with acct.cycles := 12 }) ∧
    exec (.rstT t) s = .next (Spec.pushed s s.cpu.pc (jump (BitVec.ofNat 16 (8 * t.toNat))) 16)

/-- O26. The returns: PC is popped; RETI also sets IME at once and keeps IME_DELAY. -/
def Obligations.Returns : Prop :=
  ∀ (cc : Cond) (s : State),
    let v := Spec.popped s
    exec .ret s = .next { s with cpu.pc := v, cpu.sp := s.cpu.sp + 2, acct.cycles := 16 } ∧
    exec (.retCc cc) s = .next
      (if Spec.holds s cc then { s with cpu.pc := v, cpu.sp := s.cpu.sp + 2, acct.cycles := 20 }
       else { s with acct.cycles := 8 }) ∧
    exec .reti s = .next { s with
      cpu.pc := v, cpu.sp := s.cpu.sp + 2, cpu.ime := true, acct.cycles := 16 }

/-- O27. Where the stack is RAM, a return after a call comes back to the instruction after the call with SP as it was,
and RETI comes back as RET does. -/
def Obligations.ReturnAfterCall : Prop :=
  ∀ (nn : Word) (s t : State) (j k : Nat), storeCell s (s.cpu.sp - 1) = some j →
    storeCell s (s.cpu.sp - 2) = some k → j ≠ k → exec (.callNn nn) s = .next t →
    ∃ u v, exec .ret t = .next u ∧ u.cpu = s.cpu ∧ exec .reti t = .next v ∧ v.cpu = { s.cpu with ime := true }

/-! ## System instructions -/

/-- O28. NOP, DI and EI, and HALT: it halts, or with IME = 0 and an interrupt already pending leaves the HALT bug
where the machine has it. -/
def Obligations.NopDiEiHalt : Prop :=
  ∀ s : State,
    exec .nop s = .next { s with acct.cycles := 4 } ∧
    exec .di s = .next { s with cpu.ime := false, cpu.imeDelay := false, acct.cycles := 4 } ∧
    exec .ei s = .next { s with cpu.imeDelay := true, acct.cycles := 4 } ∧
    (s.params.haltBug = true ∧ s.cpu.ime = false ∧ ¬ Spec.nonePending s →
      exec .halt s = .next { s with cpu.haltBugPending := true, acct.cycles := 4 }) ∧
    (¬ (s.params.haltBug = true ∧ s.cpu.ime = false ∧ ¬ Spec.nonePending s) →
      exec .halt s = .next { s with cpu.halted := true, acct.cycles := 4 })

/-- O29. STOP: in color mode with KEY1 armed it switches the speed, else it stops the processor; both reset the
divider, which counts TIMA once if the timer's signal is 1 (R942). -/
def Obligations.Stop : Prop :=
  ∀ (x : Byte) (s : State),
    let bit := if s.timer.tac.toNat % 4 = 0 then 9 else 1 + 2 * (s.timer.tac.toNat % 4)
    let counts := s.timer.tac.getLsbD 2 && s.timer.div16.getLsbD bit
    let timer : Timer := { s.timer with
      div16 := 0
      tima := if counts then if s.timer.tima = 0xFF then s.timer.tma else s.timer.tima + 1 else s.timer.tima }
    let irq : Irq := { s.irq with
      iflag := if counts ∧ s.timer.tima = 0xFF then s.irq.iflag ||| 0b00100 else s.irq.iflag }
    (s.params.mode = .color ∧ s.color.key1Armed = true →
      exec (.stop x) s = .next { s with
        timer := timer, irq := irq, cpu.doubleSpeed := !s.cpu.doubleSpeed, color.key1Armed := false
        acct.cycles := 8200 }) ∧
    (¬ (s.params.mode = .color ∧ s.color.key1Armed = true) →
      exec (.stop x) s = .next { s with timer := timer, irq := irq, cpu.stopped := true, acct.cycles := 4 })

/-- O30. The eleven unused opcodes lock the processor and record the opcode. -/
def Obligations.UnusedOpcodesLock : Prop :=
  ∀ s : State, ∀ p ∈ [(Instr.illegalD3, (0xD3 : Byte)), (.illegalDB, 0xDB), (.illegalDD, 0xDD), (.illegalE3, 0xE3),
      (.illegalE4, 0xE4), (.illegalEB, 0xEB), (.illegalEC, 0xEC), (.illegalED, 0xED), (.illegalF4, 0xF4),
      (.illegalFC, 0xFC), (.illegalFD, 0xFD)],
    exec p.1 s = .next { s with cpu.locked := true, cpu.lockOpcode := p.2, acct.cycles := 4 }

/-! ## Steps -/

/-- O31. A step that executes runs exactly the instruction the fetched bytes decode to, with PC past its bytes (one
short of that once after the HALT bug), then the delayed enable of EI and the advance of the units. -/
def Obligations.StepRunsDecoded : Prop :=
  ∀ (s : State) (i : Instr) (rest : List Byte), Spec.executes s → decode (Spec.window s) = .ok (i, rest) →
    ∃ t, exec i (Spec.ready s (encode i).length) = .next t ∧
      step s = .next (advanceUnits s.cpu.doubleSpeed (Spec.endOfStep s t))

/-- O32. Idle steps, and the wake from HALT: a pending enabled interrupt ends it whatever IME is, and the step then
does what it would have done awake. -/
def Obligations.IdleAndWake : Prop :=
  ∀ s : State,
    (s.cpu.locked = true → Spec.idles s) ∧
    (s.cpu.stopped = true → Spec.idles s) ∧
    (s.cpu.halted = true → Spec.nonePending s → Spec.idles s) ∧
    (s.cpu.locked = false → s.cpu.stopped = false → s.cpu.halted = true → ¬ Spec.nonePending s →
      step s = step { s with cpu.halted := false })

/-- O33. Interrupt entry: the pending enabled interrupt of the smallest number is taken, its bit alone is cleared, IME
and IME_DELAY are cleared, the return address is pushed and PC is 0x0040 + 8k, in 20 cycles. -/
def Obligations.ServiceEntry : Prop :=
  ∀ (s : State) (k : Nat), Spec.services s k →
    let u : State := { s with
      acct := { cycles := 0, gdmaCycles := 0, normalCycles := 0 }
      irq.iflag := BitVec.ofNat 5 (s.irq.iflag.toNat - 2 ^ k) }
    let x : Cpu := { s.cpu with
      halted := false, haltBugPending := false, ime := false, imeDelay := false
      sp := s.cpu.sp - 2, pc := BitVec.ofNat 16 (0x40 + 8 * k) }
    step s = .next (advanceUnits s.cpu.doubleSpeed
      (Spec.pushed u (if s.cpu.haltBugPending then s.cpu.pc - 1 else s.cpu.pc) x 20))

/-- O34. IME and IME_DELAY after any step: DI clears both, RETI sets IME, EI enables at the end of the instruction
after it, an interrupt entry clears both, and nothing else writes them. -/
def Obligations.InterruptEnableNext : Prop :=
  ∀ s t : State, step s = .next t →
    let op := memRead s s.cpu.pc
    (Spec.executes s →
      t.cpu.ime = (if op = 0xF3 then false else if op = 0xD9 then true else s.cpu.ime || s.cpu.imeDelay) ∧
      t.cpu.imeDelay = (decide (op = 0xFB) && !s.cpu.imeDelay)) ∧
    (∀ k, Spec.services s k → t.cpu.ime = false ∧ t.cpu.imeDelay = false) ∧
    (¬ Spec.executes s → (∀ k, ¬ Spec.services s k) →
      t.cpu.ime = s.cpu.ime ∧ t.cpu.imeDelay = s.cpu.imeDelay)

/-- O35. The advance of the units after a step leaves the processor alone: it changes no register of the processor and
only sets bits of IF. Of the registers software writes it changes SB, SC.START, TIMA and DIV, the HDMA registers of an
active HBlank transfer, and variant B's live clock, and no other: the mapper's control registers and its latched clock
stay. It touches memory only through an HBlank transfer, in VRAM. -/
def Obligations.UnitsLeaveProcessorAlone : Prop :=
  ∀ (ds : Bool) (s : State),
    let t := advanceUnits ds s
    t.cpu = s.cpu ∧ t.params = s.params ∧ t.irq.ie = s.irq.ie ∧
    (∀ k, s.irq.iflag.getLsbD k = true → t.irq.iflag.getLsbD k = true) ∧
    t.joypad = s.joypad ∧ t.dma = s.dma ∧ t.color = s.color ∧ t.bootMapped = s.bootMapped ∧ t.cart = s.cart ∧
    t.carry = s.carry ∧ t.frameCalled = s.frameCalled ∧ t.mapper = Spec.withLiveClock s.mapper t.mapper ∧
    t.timer.tma = s.timer.tma ∧ t.timer.tac = s.timer.tac ∧
    t.serial.fast = s.serial.fast ∧ t.serial.internal = s.serial.internal ∧
    t.ppu = { s.ppu with
      line := t.ppu.line, dot := t.ppu.dot, mode := t.ppu.mode, winLine := t.ppu.winLine, winSeen := t.ppu.winSeen } ∧
    (s.hdma.active = false → t.mem = s.mem ∧ t.hdma = s.hdma) ∧
    (∀ j, t.mem.read j ≠ s.mem.read j → vramCell 0 0 ≤ j ∧ j < vramCell 2 0)

/-- O36. A locked or stopped processor never changes again however many steps pass; pressing a button of a selected
group sets the joypad's bit of IF and ends a stop, and no button ends a lock. -/
def Obligations.LockedAndStopped : Prop :=
  (∀ (n : Nat) (s : State), s.cpu.locked = true ∨ s.cpu.stopped = true →
    ∃ t : State, Sys2Proof.core.run n s = .next t ∧ t.cpu = s.cpu) ∧
  (∀ (s : State) (buttons : Byte), Spec.selectedPress s buttons →
    joypadSet buttons s = { s with
      joypad.pressed := buttons, irq.iflag := s.irq.iflag ||| 0b10000, cpu.stopped := false }) ∧
  (∀ (s : State) (buttons : Byte), ¬ Spec.selectedPress s buttons →
    joypadSet buttons s = { s with joypad.pressed := buttons })

/-- O37. Every step of every state completes, takes at least four processor cycles, and between 2 and 8200 cycles of
normal speed. -/
def Obligations.StepTotal : Prop :=
  ∀ s : State, ∃ t, step s = .next t ∧ 4 ≤ t.acct.cycles ∧ 2 ≤ t.acct.normalCycles ∧ t.acct.normalCycles ≤ 8200

/-- O38. A frame call always returns: it takes the first number of steps whose cycles reach the frame's budget with
the carry, at most 35112 of them, and the new carry is what is over, at most 8199. -/
def Obligations.FrameEnds : Prop :=
  ∀ s : State, s.carry < 70224 → ∃ (n : Nat) (u : State),
    1 ≤ n ∧ n ≤ 35112 ∧ Sys2Proof.core.run n s = .next u ∧
    (∀ m, m < n → s.carry + Spec.elapsed m s < 70224) ∧ 70224 ≤ s.carry + Spec.elapsed n s ∧
    emulateFrame s = .next { u with carry := s.carry + Spec.elapsed n s - 70224, frameCalled := true } ∧
    s.carry + Spec.elapsed n s - 70224 ≤ 8199

/-! ## Tables and frames over all instructions -/

/-- O39. The length and the cycles of every instruction are its row of R1150, with the shorter time where a condition
is false, and 8200 where STOP switches the speed. -/
def Obligations.CycleTable : Prop :=
  ∀ (i : Instr) (s t : State), exec i s = .next t →
    (encode i).length = (Spec.timing (Spec.form i)).bytes ∧
    t.acct.cycles =
      if (∃ x, i = .stop x) ∧ s.params.mode = .color ∧ s.color.key1Armed = true then 8200
      else if Spec.untaken i s then (Spec.timing (Spec.form i)).untaken
      else (Spec.timing (Spec.form i)).cycles

/-- O40. Every instruction keeps, clears, sets or writes each flag as its row of R114 says, and POP AF takes the flags
from the upper half of the popped low byte. -/
def Obligations.FlagTable : Prop :=
  ∀ (i : Instr) (s t : State), i.WellFormed → exec i s = .next t →
    (i ≠ .popAf →
      (Spec.flagRow (Spec.form i)).z.allows s.cpu.f.z t.cpu.f.z ∧
      (Spec.flagRow (Spec.form i)).n.allows s.cpu.f.n t.cpu.f.n ∧
      (Spec.flagRow (Spec.form i)).h.allows s.cpu.f.h t.cpu.f.h ∧
      (Spec.flagRow (Spec.form i)).c.allows s.cpu.f.c t.cpu.f.c) ∧
    (i = .popAf → t.cpu.f.toByte.toNat = (memRead s s.cpu.sp).toNat / 16 * 16)

/-- O41. No instruction changes a register other than its destinations, SP and PC change in the forms R113 and the
control transfers name only, and the hidden bits in the system instructions only. -/
def Obligations.RegisterFrame : Prop :=
  ∀ (i : Instr) (s t : State), exec i s = .next t →
    (∀ r, r ∉ Spec.writtenRegs (Spec.form i) → t.cpu.getR8 r = s.cpu.getR8 r) ∧
    (Spec.writesSp (Spec.form i) = false → t.cpu.sp = s.cpu.sp) ∧
    (Spec.writesPc (Spec.form i) = false → t.cpu.pc = s.cpu.pc) ∧
    (i ∉ [.di, .ei, .reti] → t.cpu.ime = s.cpu.ime ∧ t.cpu.imeDelay = s.cpu.imeDelay) ∧
    (i ≠ .halt → t.cpu.halted = s.cpu.halted ∧ t.cpu.haltBugPending = s.cpu.haltBugPending) ∧
    ((∀ x, i ≠ .stop x) → t.cpu.stopped = s.cpu.stopped ∧ t.cpu.doubleSpeed = s.cpu.doubleSpeed) ∧
    (i ∉ [.illegalD3, .illegalDB, .illegalDD, .illegalE3, .illegalE4, .illegalEB, .illegalEC, .illegalED, .illegalF4,
        .illegalFC, .illegalFD] →
      t.cpu.locked = s.cpu.locked ∧ t.cpu.lockOpcode = s.cpu.lockOpcode)

/-- O42. The memory frame of every instruction: where the addresses it stores to are RAM, every address that shows
none of those bytes reads as before; a form that stores nothing leaves every byte and every unit as it was. STOP's
reset of the divider shows in DIV, TIMA, IF and KEY1 only. -/
def Obligations.StoreFrame : Prop :=
  ∀ (i : Instr) (s t : State), CartLegal s.cart → exec i s = .next t →
    let stored := Spec.storedAt (Spec.form i) s
    ((∀ a ∈ stored, (storeCell s a).isSome) → ∀ b, (∀ a ∈ stored, storeCell s b ≠ storeCell s a) →
      ((∃ x, i = .stop x) → b ∉ [(0xFF04 : Word), 0xFF05, 0xFF0F, 0xFF4D]) → memRead t b = memRead s b) ∧
    (stored = [] → (∀ x, i ≠ .stop x) → t = { s with cpu := t.cpu, acct.cycles := t.acct.cycles })

/-- O43. A store to RAM changes that byte and nothing else: it reads back wherever it shows, every other address reads
as before. Any other store changes a byte of memory only through the DMA registers and the palette data ports. -/
def Obligations.MemoryWrite : Prop :=
  ∀ (s : State) (a : Word) (v : Byte), CartLegal s.cart →
    (∀ k, storeCell s a = some k →
      memWrite s a v = { s with mem := (memWrite s a v).mem } ∧
      (∀ b, storeCell s b = some k → memRead (memWrite s a v) b = v) ∧
      (∀ b, storeCell s b ≠ some k → memRead (memWrite s a v) b = memRead s b)) ∧
    (∀ j, (memWrite s a v).mem.read j ≠ s.mem.read j →
      storeCell s a = some j ∨ (a = 0xFF46 ∧ oamBase ≤ j ∧ j < oamBase + 160) ∨
      (s.params.mode = .color ∧
        ((a = 0xFF55 ∧ vramCell 0 0 ≤ j ∧ j < vramCell 2 0) ∨
         (a = 0xFF69 ∧ j = bgPalBase + s.color.bcps.index.toNat) ∨
         (a = 0xFF6B ∧ j = objPalBase + s.color.ocps.index.toNat))))

/-! ## Invariants -/

/-- O44. The invariant holds at reset, and reset is the machine the builder makes of an image of 32768 zero bytes (the
model's choice, log 1). -/
def Obligations.ResetInv : Prop :=
  Inv State.reset ∧ ∀ draws, build (List.replicate 32768 0) BuildOptions.default draws = .ok State.reset

/-- O45. Every step from every state that meets the invariant gives a state that meets it. -/
def Obligations.StepKeepsInv : Prop := ∀ s t : State, Inv s → step s = .next t → Inv t

/-- O46. Every machine the builder makes on the boot-skip path meets the invariant, whatever the image, the options and
the initial cartridge RAM, and so does every one of the boot-ROM path whose draws meet it (log 13, log 16). Every
sequence of host actions keeps it. A button setting and a frame call complete in every such state; cartridge RAM and
clock are replaced as the host asks, before the first frame call, and which values a replacement takes, and that any
other is refused, are the model's choices (log 14, log 21). -/
def Obligations.BuiltInv : Prop :=
  (∀ (image : List Byte) (o : BuildOptions) (draws s : State), o.bootSkip = true ∨ Inv draws →
    build image o draws = .ok s → Inv s) ∧
  (∀ (s t : State) (actions : List HostAction), Inv s → hostRun actions s = .next t → Inv t) ∧
  (∀ s : State, Inv s →
    (∀ buttons, hostAct (.joypad buttons) s = .next (joypadSet buttons s)) ∧
    (∃ t, hostAct .frame s = .next t ∧ t.frameCalled = true) ∧
    (∀ bytes,
      let allowed := s.frameCalled = false ∧ bytes.length = Spec.ramSize s
      (allowed → ∃ t, hostAct (.replaceSaveRam bytes) s = .next t ∧ saveRam t = bytes ∧ t = { s with mem := t.mem } ∧
        ∀ j, j < cramBase ∨ cramBase + Spec.ramSize s ≤ j → t.mem.read j = s.mem.read j) ∧
      (¬ allowed → hostAct (.replaceSaveRam bytes) s = .refused .hostAction)) ∧
    (∀ rtc,
      let allowed := s.frameCalled = false ∧ clockState s ≠ none ∧ rtc.sub < 4194304
      (allowed → ∃ t, hostAct (.replaceClock rtc) s = .next t ∧ clockState t = some rtc ∧
        t = { s with mapper := t.mapper } ∧ ∃ r, s.mapper = .variantB r ∧ t.mapper = .variantB { r with rtc := rtc }) ∧
      (¬ allowed → hostAct (.replaceClock rtc) s = .refused .hostAction)))

/-- O47. No step changes the image, the boot image, the cartridge's sizes or the fixed parameters, or maps the boot
image back. -/
def Obligations.RomNeverChanges : Prop :=
  ∀ s t : State, CartLegal s.cart → step s = .next t →
    (∀ j, bootBase ≤ j → t.mem.read j = s.mem.read j) ∧ t.cart = s.cart ∧ t.params = s.params ∧
    (s.bootMapped = false → t.bootMapped = false)

/-! ## The address map, the mapper and the DMA engines -/

/-- O48. The echo region is the same access 0x2000 below; 0xFEA0 to 0xFEFF reads 0xFF and ignores writes. -/
def Obligations.EchoAndUnusable : Prop :=
  ∀ (s : State) (a : Word) (v : Byte),
    (0xE000 ≤ a.toNat → a.toNat ≤ 0xFDFF →
      memRead s a = memRead s (a - 0x2000) ∧ memWrite s a v = memWrite s (a - 0x2000) v) ∧
    (0xFEA0 ≤ a.toNat → a.toNat ≤ 0xFEFF → memRead s a = 0xFF ∧ memWrite s a v = s)

/-- O49. The arbiter: while the picture engine owns a memory, a read of it gives 0xFF and a write is lost, but for the
increment of the palette index; while it does not, the access reaches the byte. -/
def Obligations.Arbiter : Prop :=
  ∀ (s : State) (a : Word) (v : Byte),
    let on := s.params.vramBlocking = true ∧ s.ppu.lcdc.getLsbD 7 = true
    let bump (p : PaletteIndex) : PaletteIndex :=
      { p with index := if p.autoInc then BitVec.ofNat 6 (p.index.toNat + 1) else p.index }
    (0x8000 ≤ a.toNat → a.toNat ≤ 0x9FFF →
      (on ∧ s.ppu.mode = .drawing → memRead s a = 0xFF ∧ memWrite s a v = s) ∧
      (¬ (on ∧ s.ppu.mode = .drawing) →
        memRead s a = s.mem.read (vramCell (if s.params.mode = .color then s.color.vbk.toNat else 0)
          (a.toNat - 0x8000)) ∧ memRead (memWrite s a v) a = v)) ∧
    (0xFE00 ≤ a.toNat → a.toNat ≤ 0xFE9F →
      (on ∧ (s.ppu.mode = .oamScan ∨ s.ppu.mode = .drawing) → memRead s a = 0xFF ∧ memWrite s a v = s) ∧
      (¬ (on ∧ (s.ppu.mode = .oamScan ∨ s.ppu.mode = .drawing)) →
        memRead s a = s.mem.read (oamBase + (a.toNat - 0xFE00)) ∧ memRead (memWrite s a v) a = v)) ∧
    (s.params.mode = .color →
      (on ∧ s.ppu.mode = .drawing →
        memRead s 0xFF69 = 0xFF ∧ memWrite s 0xFF69 v = { s with color.bcps := bump s.color.bcps } ∧
        memRead s 0xFF6B = 0xFF ∧ memWrite s 0xFF6B v = { s with color.ocps := bump s.color.ocps }) ∧
      (¬ (on ∧ s.ppu.mode = .drawing) →
        let bg := bgPalBase + s.color.bcps.index.toNat
        let obj := objPalBase + s.color.ocps.index.toNat
        memRead s 0xFF69 = s.mem.read bg ∧ (memWrite s 0xFF69 v).mem.read bg = v ∧
        (memWrite s 0xFF69 v).color = { s.color with bcps := bump s.color.bcps } ∧
        memRead s 0xFF6B = s.mem.read obj ∧ (memWrite s 0xFF6B v).mem.read obj = v ∧
        (memWrite s 0xFF6B v).color = { s.color with ocps := bump s.color.ocps }))

/-- O50. Mapper variant A: its four control windows, the two ROM windows with their banks masked to the image, and the
cartridge RAM window. -/
def Obligations.MapperVariantA : Prop :=
  ∀ (s : State) (r : VariantA) (a : Word) (v : Byte), s.mapper = .variantA r → s.bootMapped = false →
    let control (r' : VariantA) : Prop := memWrite s a v = { s with mapper := .variantA r' }
    let offset := (if r.mode then r.bank2.toNat else 0) % s.cart.ramBanks * 8192 + (a.toNat - 0xA000)
    (a.toNat ≤ 0x1FFF → control { r with ramEn := decide (v.toNat % 16 = 0xA) }) ∧
    (0x2000 ≤ a.toNat → a.toNat ≤ 0x3FFF →
      control { r with bank1 := BitVec.ofNat 5 (if v.toNat % 32 = 0 then 1 else v.toNat % 32) }) ∧
    (0x4000 ≤ a.toNat → a.toNat ≤ 0x5FFF → control { r with bank2 := BitVec.ofNat 2 (v.toNat % 4) }) ∧
    (0x6000 ≤ a.toNat → a.toNat ≤ 0x7FFF → control { r with mode := decide (v.toNat % 2 = 1) }) ∧
    (a.toNat ≤ 0x3FFF →
      memRead s a = Spec.romByte s ((if r.mode then 32 * r.bank2.toNat else 0) % s.cart.romBanks * 16384 + a.toNat) ∧
      (∀ n, s.cart.romBanks = 2 ^ n → n ≤ 5 → memRead s a = Spec.romByte s a.toNat)) ∧
    (0x4000 ≤ a.toNat → a.toNat ≤ 0x7FFF →
      memRead s a = Spec.romByte s
        ((32 * r.bank2.toNat + r.bank1.toNat) % s.cart.romBanks * 16384 + (a.toNat - 0x4000))) ∧
    (0xA000 ≤ a.toNat → a.toNat ≤ 0xBFFF →
      (r.ramEn = false ∨ s.cart.ramBanks = 0 → memRead s a = 0xFF ∧ memWrite s a v = s) ∧
      (r.ramEn = true → s.cart.ramBanks ≠ 0 →
        memRead s a = Spec.cramByte s (offset % s.cart.ramBytes) ∧
        Spec.cramByte (memWrite s a v) (offset % s.cart.ramBytes) = v ∧
        memWrite s a v = { s with mem := (memWrite s a v).mem }))

/-- O51. Mapper variant B: its control windows with the clock latch, the ROM windows, and the window that shows RAM or
a clock register. -/
def Obligations.MapperVariantB : Prop :=
  ∀ (s : State) (r : VariantB) (a : Word) (v : Byte), s.mapper = .variantB r → s.bootMapped = false →
    let control (r' : VariantB) : Prop := memWrite s a v = { s with mapper := .variantB r' }
    let offset := r.sel.toNat % s.cart.ramBanks * 8192 + (a.toNat - 0xA000)
    (a.toNat ≤ 0x1FFF → control { r with ramEn := decide (v.toNat = 0x0A) }) ∧
    (0x2000 ≤ a.toNat → a.toNat ≤ 0x3FFF →
      control { r with romb := BitVec.ofNat 7 (if v.toNat % 128 = 0 then 1 else v.toNat % 128) }) ∧
    (0x4000 ≤ a.toNat → a.toNat ≤ 0x5FFF → control { r with sel := v }) ∧
    (0x6000 ≤ a.toNat → a.toNat ≤ 0x7FFF →
      control { r with
        latchPrev := v
        rtc.latched := if r.latchPrev = 0x00 ∧ v = 0x01 then r.rtc.live else r.rtc.latched }) ∧
    (a.toNat ≤ 0x3FFF → memRead s a = Spec.romByte s a.toNat) ∧
    (0x4000 ≤ a.toNat → a.toNat ≤ 0x7FFF →
      memRead s a = Spec.romByte s (r.romb.toNat % s.cart.romBanks * 16384 + (a.toNat - 0x4000))) ∧
    (0xA000 ≤ a.toNat → a.toNat ≤ 0xBFFF →
      (r.ramEn = false ∨ 0x0D ≤ r.sel.toNat ∨ (r.sel.toNat ≤ 7 ∧ s.cart.ramBanks = 0) →
        memRead s a = 0xFF ∧ memWrite s a v = s) ∧
      (r.ramEn = true → r.sel.toNat ≤ 7 → s.cart.ramBanks ≠ 0 →
        memRead s a = Spec.cramByte s (offset % s.cart.ramBytes) ∧
        Spec.cramByte (memWrite s a v) (offset % s.cart.ramBytes) = v ∧
        memWrite s a v = { s with mem := (memWrite s a v).mem }) ∧
      (r.ramEn = true → 8 ≤ r.sel.toNat → r.sel.toNat ≤ 12 →
        memRead s a = Spec.clockByte r.rtc.latched r.sel.toNat ∧
        ∃ c : Rtc, memWrite s a v = { s with mapper := .variantB { r with rtc := c } } ∧
          c.sub = (if r.sel.toNat = 8 then 0 else r.rtc.sub) ∧
          (∀ k, 8 ≤ k → k ≤ 12 →
            Spec.clockByte c.live k =
              (if k = r.sel.toNat then Spec.clockMask k v else Spec.clockByte r.rtc.live k) ∧
            Spec.clockByte c.latched k =
              (if k = r.sel.toNat then Spec.clockMask k v else Spec.clockByte r.rtc.latched k))))

/-- O52. OAM DMA copies the 160 bytes of the source page at once, past the arbiter; a general-purpose HDMA copies its
blocks into video memory, advances its registers and charges its cycles; HDMA5 starts and stops an HBlank transfer; and
an HBlank transfer moves one block of 16 bytes at the dot where a visible line enters mode 0, at no other dot, and ends
with the last block. -/
def Obligations.DmaTransfers : Prop :=
  ∀ (s : State) (v : Byte), CartLegal s.cart →
    (let t := ppuDot s
     let src := s.hdma.src.toNat
     let dst (i : Nat) := vramCell s.color.vbk.toNat (s.hdma.dst.toNat / 16 * 16 + i)
     let entered := s.ppu.dot = 251 ∧ s.ppu.line < 144
     (s.hdma.active = true → entered →
       t.hdma = { src := BitVec.ofNat 16 (src + 16), dst := BitVec.ofNat 13 (s.hdma.dst.toNat + 16)
                  len := BitVec.ofNat 7 (s.hdma.len.toNat + 127), active := decide (s.hdma.len.toNat ≠ 0) } ∧
       (src + 16 ≤ 0x8000 ∨ (0xA000 ≤ src ∧ src + 16 ≤ 0xFF00) →
         ∀ i, i < 16 → t.mem.read (dst i) = memRead (Spec.unblocked s) (BitVec.ofNat 16 (src + i))) ∧
       (∀ j, (∀ i, i < 16 → j ≠ dst i) → t.mem.read j = s.mem.read j)) ∧
     (s.hdma.active = false ∨ ¬ entered → t.hdma = s.hdma ∧ t.mem = s.mem) ∧ t.acct = s.acct) ∧
    (let page := if 0xE0 ≤ v.toNat then v.toNat - 0x20 else v.toNat
     let t := memWrite s 0xFF46 v
     t = { s with dma := v, mem := t.mem } ∧
     (∀ i, i < 160 → t.mem.read (oamBase + i) = memRead (Spec.unblocked s) (BitVec.ofNat 16 (256 * page + i))) ∧
     (∀ j, ¬ (oamBase ≤ j ∧ j < oamBase + 160) → t.mem.read j = s.mem.read j)) ∧
    (s.params.mode = .color →
      (let n := v.toNat % 128 + 1
       let src := s.hdma.src.toNat
       let dst (i : Nat) := vramCell s.color.vbk.toNat ((s.hdma.dst.toNat / 16 * 16 + i) % 8192)
       let t := memWrite s 0xFF55 v
       s.hdma.active = false → v.toNat < 128 →
         t = { s with
           mem := t.mem
           hdma := { src := BitVec.ofNat 16 (src + 16 * n), dst := BitVec.ofNat 13 (s.hdma.dst.toNat + 16 * n)
                     len := 0x7F, active := false }
           acct.gdmaCycles := n * 32 * (if s.cpu.doubleSpeed then 2 else 1) } ∧
         (src + 16 * n ≤ 0x8000 ∨ (0xA000 ≤ src ∧ src + 16 * n ≤ 0xE000) →
           ∀ i, i < 16 * n → t.mem.read (dst i) = memRead (Spec.unblocked s) (BitVec.ofNat 16 (src + i))) ∧
         (∀ j, (∀ i, i < 16 * n → j ≠ dst i) → t.mem.read j = s.mem.read j)) ∧
      (s.hdma.active = true → v.toNat < 128 → memWrite s 0xFF55 v = { s with hdma.active := false }) ∧
      (128 ≤ v.toNat → memWrite s 0xFF55 v = { s with
        hdma.active := true, hdma.len := BitVec.ofNat 7 (v.toNat % 128) }))

/-- O53. Every register of the I/O file, in both modes: what it reads after a write, with the fixed bits of its rule;
that the unmapped addresses read 0xFF and ignore writes; that the audio window hands writes to the sink, and reads them
back where AUDIO_READ is the reference choice (log 10); and what the write-only HDMA registers store. -/
def Obligations.IoRegisters : Prop :=
  ∀ (s : State) (v : Byte),
    let back (a : Word) : Nat := (memRead (memWrite s a v) a).toNat
    let n := v.toNat
    let unmapped (a : Word) : Prop := memRead s a = 0xFF ∧ memWrite s a v = s
    (∀ a ∈ [(0xFF01 : Word), 0xFF05, 0xFF06, 0xFF40, 0xFF42, 0xFF43, 0xFF45, 0xFF46, 0xFF47, 0xFF48, 0xFF49, 0xFF4A,
        0xFF4B, 0xFFFF], back a = n) ∧
    back 0xFF04 = 0 ∧ back 0xFF07 = n % 8 ∧ back 0xFF0F = 0xE0 + n % 32 ∧
    back 0xFF41 = 0x80 + n / 8 % 16 * 8 + (memRead s 0xFF41).toNat % 8 ∧
    memWrite s 0xFF44 v = s ∧
    memRead s 0xFF44 = (if s.ppu.lcdc.getLsbD 7 then BitVec.ofNat 8 s.ppu.line else 0x00) ∧
    (∀ a : Word, a = 0xFF03 ∨ (0xFF08 ≤ a.toNat ∧ a.toNat ≤ 0xFF0E) ∨ a = 0xFF4C ∨ a = 0xFF4E ∨
      (0xFF56 ≤ a.toNat ∧ a.toNat ≤ 0xFF67) ∨ (0xFF6C ≤ a.toNat ∧ a.toNat ≤ 0xFF6F) ∨
      (0xFF71 ≤ a.toNat ∧ a.toNat ≤ 0xFF7F) → unmapped a) ∧
    (∀ a : Word, 0xFF10 ≤ a.toNat → a.toNat ≤ 0xFF3F →
      memWrite s a v = { s with audio := .write a v :: s.audio } ∧
      (s.params.audioRead = .reference → back a = n)) ∧
    back 0xFF50 = 0xFF ∧
    memWrite s 0xFF50 v = { s with bootMapped := if n = 0 then s.bootMapped else false } ∧
    back 0xFF00 = 0xC0 + n / 16 % 4 * 16 +
      ((List.range 4).map fun k =>
        if (s.joypad.pressed.getLsbD k ∧ n / 16 % 2 = 0) ∨ (s.joypad.pressed.getLsbD (k + 4) ∧ n / 32 % 2 = 0)
        then 0 else 2 ^ k).sum ∧
    (s.params.mode = .monochrome →
      back 0xFF02 = 0x7E + n / 128 * 128 + n % 2 ∧
      ∀ a : Word, a = 0xFF4D ∨ a = 0xFF4F ∨ (0xFF51 ≤ a.toNat ∧ a.toNat ≤ 0xFF55) ∨
        (0xFF68 ≤ a.toNat ∧ a.toNat ≤ 0xFF6B) ∨ a = 0xFF70 → unmapped a) ∧
    (s.params.mode = .color →
      let src := s.hdma.src.toNat
      let dst := s.hdma.dst.toNat
      let owned := s.params.vramBlocking = true ∧ s.ppu.lcdc.getLsbD 7 = true ∧ s.ppu.mode = .drawing
      back 0xFF02 = 0x7C + n / 128 * 128 + n % 4 ∧
      back 0xFF4D = 0x7E + 128 * s.cpu.doubleSpeed.toNat + n % 2 ∧ back 0xFF4F = 0xFE + n % 2 ∧
      (∀ a ∈ [(0xFF51 : Word), 0xFF52, 0xFF53, 0xFF54], back a = 0xFF) ∧
      memWrite s 0xFF51 v = { s with hdma.src := BitVec.ofNat 16 (256 * n + src % 256) } ∧
      memWrite s 0xFF52 v = { s with hdma.src := BitVec.ofNat 16 (src / 256 * 256 + n / 16 * 16) } ∧
      memWrite s 0xFF53 v = { s with hdma.dst := BitVec.ofNat 13 (n % 32 * 256 + dst % 256) } ∧
      memWrite s 0xFF54 v = { s with hdma.dst := BitVec.ofNat 13 (dst / 256 * 256 + n / 16 * 16) } ∧
      (memRead s 0xFF55).toNat = (if s.hdma.active then 0 else 128) + s.hdma.len.toNat ∧
      back 0xFF55 = (if 128 ≤ n then n - 128 else if s.hdma.active then 128 + s.hdma.len.toNat else 255) ∧
      back 0xFF68 = 0x40 + n / 128 * 128 + n % 64 ∧ back 0xFF6A = 0x40 + n / 128 * 128 + n % 64 ∧
      (owned → back 0xFF69 = 0xFF ∧ back 0xFF6B = 0xFF) ∧
      (¬ owned → s.color.bcps.autoInc = false → back 0xFF69 = n) ∧
      (¬ owned → s.color.ocps.autoInc = false → back 0xFF6B = n) ∧
      back 0xFF70 = 0xF8 + n % 8)

/-! ## Units -/

/-- O54. The timer over any number of cycles, in closed form: the divider counts every cycle, TIMA counts once a period
while enabled, and reloads from TMA with a request each time it passes 0xFF. -/
def Obligations.TimerPeriod : Prop :=
  ∀ (s : State) (c : Nat),
    let div := s.timer.div16.toNat
    let p := Spec.timerPeriod s.timer.tac.toNat
    let n := if s.timer.tac.getLsbD 2 then (div + c) / p - div / p else 0
    let tima := s.timer.tima.toNat
    let tma := s.timer.tma.toNat
    timerAdvance c s = { s with
      timer := { s.timer with
        div16 := BitVec.ofNat 16 (div + c)
        tima := BitVec.ofNat 8 (if tima + n < 256 then tima + n else tma + (tima + n - 256) % (256 - tma)) }
      irq.iflag := if tima + n < 256 then s.irq.iflag else s.irq.iflag ||| 0b00100 }

/-- O55. A serial transfer over any number of cycles, in closed form: the bits shifted, most significant first, and at
the eighth the end of the transfer with its request; and how a write of SC starts, keeps or stops one. -/
def Obligations.SerialTransfer : Prop :=
  ∀ (s : State) (c : Nat) (v : Byte),
    let p := if s.params.mode = .color ∧ s.serial.fast = true then 16 else 512
    let b := s.serial.bits
    let k := min b ((s.serial.clk + c) / p)
    let input := (Spec.serialInput s).toNat
    let sb := BitVec.ofNat 8 (s.serial.sb.toNat * 2 ^ k + input % 2 ^ b / 2 ^ (b - k))
    (b = 0 → serialAdvance c s = s) ∧
    (0 < b → k < b →
      serialAdvance c s = { s with serial.sb := sb, serial.bits := b - k, serial.clk := s.serial.clk + c - k * p }) ∧
    (0 < b → k = b →
      serialAdvance c s = { s with
        serial.sb := sb, serial.bits := 0, serial.clk := 0, serial.start := false
        serial.count := s.serial.count + 1, irq.iflag := s.irq.iflag ||| 0b01000 }) ∧
    (let t := memWrite s 0xFF02 v
     let started := v.toNat / 128 = 1 ∧ v.toNat % 2 = 1
     (started → b = 0 → t.serial.bits = 8 ∧ t.serial.clk = 0) ∧
     (started → b ≠ 0 → t.serial.bits = b ∧ t.serial.clk = s.serial.clk) ∧
     (¬ started → t.serial.bits = 0))

/-- O56. The picture engine over any number of dots, in closed form: its position and mode by R1002, one row handed out
for every visible line whose drawing it completes, and exactly the VBlank and STAT requests of the dots it passes;
while the LCD is off nothing happens. -/
def Obligations.PictureTiming : Prop :=
  ∀ (s : State) (d : Nat), PpuLegal s.ppu →
    let t := ppuAdvance d s
    (s.ppu.lcdc.getLsbD 7 = false → t = s) ∧
    (s.ppu.lcdc.getLsbD 7 = true →
      let q := (Spec.framePosition s.ppu + d) % 70224
      let passed (j : Nat) : Nat := (Spec.framePosition s.ppu + j + 1) % 70224
      t.ppu.line = q / 456 ∧ t.ppu.dot = q % 456 ∧
      t.ppu.mode = (if 144 ≤ q / 456 then .vblank else if q % 456 < 80 then .oamScan
        else if q % 456 < 252 then .drawing else .hblank) ∧
      t.video.length = s.video.length +
        ((List.range d).filter fun j => decide (passed j % 456 = 252 ∧ passed j / 456 < 144)).length ∧
      (t.irq.iflag.getLsbD 0 = true ↔ s.irq.iflag.getLsbD 0 = true ∨ ∃ j, j < d ∧ passed j = 65664) ∧
      (t.irq.iflag.getLsbD 1 = true ↔
        s.irq.iflag.getLsbD 1 = true ∨ ∃ j, j < d ∧ Spec.statTriggers s.ppu (passed j)) ∧
      (∀ k, 2 ≤ k → t.irq.iflag.getLsbD k = s.irq.iflag.getLsbD k))

/-- O57. At most ten sprites of a line, the first that cover it in OAM order; of those opaque at a column the winner
has the smallest X and then the smallest OAM index, in color mode the smallest OAM index alone; and a blank line. -/
def Obligations.SpriteWinner : Prop :=
  ∀ (s : State) (line x : Nat),
    let sprites := lineSprites s line
    let covers (p : Sprite) : Prop :=
      p.y.toNat ≤ line + 16 ∧ line + 16 < p.y.toNat + if s.ppu.lcdc.getLsbD 2 then 16 else 8
    (∃ n, n ≤ 40 ∧ sprites.Sublist ((List.range n).map (spriteAt s)) ∧ (∀ p ∈ sprites, covers p) ∧
      sprites.length ≤ 10 ∧ (sprites.length < 10 → n = 40) ∧
      (∀ i, i < n → covers (spriteAt s i) → spriteAt s i ∈ sprites)) ∧
    (winningSprite s line sprites x = none ↔
      s.ppu.lcdc.getLsbD 1 = false ∨ ∀ p ∈ sprites, spriteIndex s line p x = 0) ∧
    (∀ q, winningSprite s line sprites x = some q →
      q.index = spriteIndex s line q.sprite x ∧ q.index ≠ 0 ∧
      ∃ before after, sprites = before ++ q.sprite :: after ∧
        (∀ p ∈ before, spriteIndex s line p x ≠ 0 → s.params.mode = .monochrome ∧ q.sprite.x.toNat < p.x.toNat) ∧
        (∀ p ∈ after, spriteIndex s line p x ≠ 0 → s.params.mode = .monochrome → q.sprite.x.toNat ≤ p.x.toNat)) ∧
    (s.params.mode = .monochrome → s.ppu.lcdc.getLsbD 0 = false → s.ppu.lcdc.getLsbD 1 = false →
      renderRow s line = List.replicate 160 (s.params.shades.s0.setWidth 16))

/-- O58. The clock over any number of cycles, in closed form: while it runs and shows a legal time, it gains one second
for every 4194304 cycles, rolls over after 512 days and then sets the day carry; while halted it keeps its time. -/
def Obligations.ClockAdds : Prop :=
  ∀ (r : Rtc) (d : Nat),
    let k := (r.sub + d) / 4194304
    let total := Spec.clockSeconds r.live + k
    let t := rtcAdvance d r
    (r.live.halt = true → t = r) ∧
    (r.live.halt = false → r.live.s.toNat < 60 → r.live.m.toNat < 60 → r.live.h.toNat < 24 →
      t.latched = r.latched ∧ t.sub = (r.sub + d) % 4194304 ∧ t.live.halt = false ∧
      t.live.s.toNat < 60 ∧ t.live.m.toNat < 60 ∧ t.live.h.toNat < 24 ∧
      Spec.clockSeconds t.live = total % 44236800 ∧
      t.live.dayCarry = (r.live.dayCarry || decide (44236800 ≤ total)))

/-! ## Construction -/

/-- O59. Construction rejects exactly the images of R304, and the mode is the one of R1201, whatever the options. -/
def Obligations.BuilderAccepts : Prop :=
  ∀ (image : List Byte) (o : BuildOptions) (draws : State),
    let byte (i : Nat) : Nat := (image.getD i 0).toNat
    let roms := 2 * 2 ^ byte 0x148
    let rams := [0, 1, 1, 4, 16, 8].getD (byte 0x149) 0
    let rejected : Prop :=
      image.length < 0x150 ∨ byte 0x147 ∉ [0x00, 0x01, 0x02, 0x03, 0x0F, 0x10, 0x11, 0x12, 0x13] ∨
      0x08 < byte 0x148 ∨ 0x05 < byte 0x149 ∨ image.length ≠ roms * 16384 ∨
      (byte 0x147 = 0 ∧ roms ≠ 2) ∨
      (byte 0x147 ∈ [0x01, 0x02, 0x03] ∧ (128 < roms ∨ 4 < rams)) ∨
      (byte 0x147 ∈ [0x0F, 0x10, 0x11, 0x12, 0x13] ∧ (128 < roms ∨ 8 < rams))
    (rejected → ∃ e, build image o draws = .error e) ∧
    (¬ rejected → ∃ s, build image o draws = .ok s ∧
      s.params.mode = (if byte 0x143 < 128 then .monochrome
        else if byte 0x143 = 0xC0 then .color else o.mode.getD .color))

/-- O60. The processor's registers right after construction on both paths, and what every I/O register then reads on
the boot-skip path with the default divider and with the reference choice for AUDIO_READ, the model's choice (log 10);
the table is the one R1102 derives. -/
def Obligations.AfterConstruction : Prop :=
  ∀ (image : List Byte) (o : BuildOptions) (draws s : State), build image o draws = .ok s →
    (o.bootSkip = true →
      (s.params.mode = .monochrome →
        s.cpu.a = 0x01 ∧ s.cpu.f.toByte = 0xB0 ∧ s.cpu.b = 0x00 ∧ s.cpu.c = 0x13 ∧ s.cpu.d = 0x00 ∧ s.cpu.e = 0xD8 ∧
        s.cpu.h = 0x01 ∧ s.cpu.l = 0x4D) ∧
      (s.params.mode = .color →
        s.cpu.a = 0x11 ∧ s.cpu.f.toByte = 0x80 ∧ s.cpu.b = 0x00 ∧ s.cpu.c = 0x00 ∧ s.cpu.d = 0xFF ∧ s.cpu.e = 0x56 ∧
        s.cpu.h = 0x00 ∧ s.cpu.l = 0x0D) ∧
      s.cpu.sp = 0xFFFE ∧ s.cpu.pc = 0x0100 ∧ s.cpu.lockOpcode = 0x00) ∧
    (o.bootSkip = false → s.cpu.pc = 0x0000 ∧ s.bootMapped = true ∧ s.audio = []) ∧
    s.cpu.ime = false ∧ s.cpu.imeDelay = false ∧ s.cpu.halted = false ∧ s.cpu.stopped = false ∧
    s.cpu.haltBugPending = false ∧ s.cpu.locked = false ∧ s.cpu.doubleSpeed = false ∧
    (o.bootSkip = true → o.divInit = 0xABCC → o.audioRead = .reference →
      ∀ a x y, (a, x, y) ∈
        ([(0xFF00, 0xCF, 0xCF), (0xFF01, 0x00, 0x00), (0xFF02, 0x7E, 0x7F), (0xFF04, 0xAB, 0xAB), (0xFF05, 0x00, 0x00),
          (0xFF06, 0x00, 0x00), (0xFF07, 0x00, 0x00), (0xFF0F, 0xE1, 0xE1), (0xFF26, 0xF1, 0xF1), (0xFF40, 0x91, 0x91),
          (0xFF41, 0x86, 0x86), (0xFF42, 0x00, 0x00), (0xFF43, 0x00, 0x00), (0xFF44, 0x00, 0x00), (0xFF45, 0x00, 0x00),
          (0xFF46, 0xFF, 0xFF), (0xFF47, 0xFC, 0xFC), (0xFF48, 0xFF, 0xFF), (0xFF49, 0xFF, 0xFF), (0xFF4A, 0x00, 0x00),
          (0xFF4B, 0x00, 0x00), (0xFF4D, 0xFF, 0x7E), (0xFF4F, 0xFF, 0xFE), (0xFF50, 0xFF, 0xFF), (0xFF51, 0xFF, 0xFF),
          (0xFF52, 0xFF, 0xFF), (0xFF53, 0xFF, 0xFF), (0xFF54, 0xFF, 0xFF), (0xFF55, 0xFF, 0xFF), (0xFF68, 0xFF, 0x40),
          (0xFF69, 0xFF, 0xFF), (0xFF6A, 0xFF, 0x40), (0xFF6B, 0xFF, 0xFF), (0xFF70, 0xFF, 0xF8),
          (0xFFFF, 0x00, 0x00)] : List (Word × Byte × Byte)) →
        memRead s a = if s.params.mode = .monochrome then x else y)
end

