-- ==== Sys2Proof/Laws/Memory.lean ====
section
/-! SUPPORT. The laws of the store: a read after a write, and that every operation keeps the canonical form. -/

namespace Sys2Proof.Machine

theorem Memory.read_erase_self (m : Memory) (k : Nat) : (m.erase k).read k = Memory.unlisted k := by
  induction m with
  | nil => rfl
  | cons x rest ih =>
    simp only [Memory.erase]
    split
    · exact ih
    · simp [Memory.read, *]

theorem Memory.read_erase_ne (m : Memory) {k j : Nat} (h : j ≠ k) : (m.erase k).read j = m.read j := by
  induction m with
  | nil => rfl
  | cons x rest ih =>
    simp only [Memory.erase]
    split
    · next hk => subst hk; rw [ih]; simp [Memory.read, Ne.symm h]
    · simp [Memory.read, ih]

theorem Memory.read_put_self (m : Memory) (k : Nat) (v : Byte) : (m.put k v).read k = v := by
  induction m with
  | nil => simp [Memory.put, Memory.read]
  | cons x rest ih =>
    simp only [Memory.put]
    split
    · simp [Memory.read]
    · split
      · simp [Memory.read]
      · next h => simp [Memory.read, ih, Ne.symm h]

theorem Memory.read_put_ne (m : Memory) {k j : Nat} (v : Byte) (h : j ≠ k) : (m.put k v).read j = m.read j := by
  induction m with
  | nil => simp [Memory.put, Memory.read, Ne.symm h]
  | cons x rest ih =>
    simp only [Memory.put]
    split
    · simp [Memory.read, Ne.symm h]
    · split
      · next hk => subst hk; simp [Memory.read, Ne.symm h]
      · simp [Memory.read, ih]

@[simp] theorem Memory.read_write_self (m : Memory) (k : Nat) (v : Byte) : (m.write k v).read k = v := by
  unfold Memory.write
  split
  · next h => rw [Memory.read_erase_self, h]
  · exact Memory.read_put_self m k v

@[simp] theorem Memory.read_write_ne (m : Memory) {k j : Nat} (v : Byte) (h : j ≠ k) :
    (m.write k v).read j = m.read j := by
  unfold Memory.write
  split
  · exact Memory.read_erase_ne m h
  · exact Memory.read_put_ne m v h

theorem Memory.read_write (m : Memory) (k j : Nat) (v : Byte) :
    (m.write k v).read j = if j = k then v else m.read j := by
  split
  · next h => subst h; exact Memory.read_write_self m j v
  · next h => exact Memory.read_write_ne m v h

@[simp] theorem Memory.read_nil (k : Nat) : Memory.read [] k = Memory.unlisted k := rfl

/-! ## The canonical form -/

theorem Memory.wfFrom_mono {m : Memory} {lo lo' : Nat} (h : lo' ≤ lo) (hm : Memory.wfFrom lo m = true) :
    Memory.wfFrom lo' m = true := by
  cases m with
  | nil => rfl
  | cons x rest =>
    simp only [Memory.wfFrom, Bool.and_eq_true, decide_eq_true_eq] at hm ⊢
    exact ⟨⟨h.trans hm.1.1, hm.1.2⟩, hm.2⟩

theorem Memory.wfFrom_erase {m : Memory} {lo : Nat} (k : Nat) (hm : Memory.wfFrom lo m = true) :
    Memory.wfFrom lo (m.erase k) = true := by
  induction m generalizing lo with
  | nil => rfl
  | cons x rest ih =>
    simp only [Memory.wfFrom, Bool.and_eq_true, decide_eq_true_eq] at hm
    simp only [Memory.erase]
    split
    · exact ih (Memory.wfFrom_mono (Nat.le_succ_of_le hm.1.1) hm.2)
    · simp [Memory.wfFrom, hm.1.1, hm.1.2, ih hm.2]

theorem Memory.wfFrom_put {m : Memory} {lo k : Nat} {v : Byte} (hk : lo ≤ k) (hv : v ≠ Memory.unlisted k)
    (hm : Memory.wfFrom lo m = true) : Memory.wfFrom lo (m.put k v) = true := by
  induction m generalizing lo with
  | nil => simp [Memory.put, Memory.wfFrom, hk, hv]
  | cons x rest ih =>
    simp only [Memory.wfFrom, Bool.and_eq_true, decide_eq_true_eq] at hm
    simp only [Memory.put]
    split
    · next hlt => simp [Memory.wfFrom, hk, hv, hm.1.2, hm.2, Nat.succ_le_of_lt hlt]
    · split
      · next heq => subst heq; simp [Memory.wfFrom, hk, hv, hm.2]
      · next hlt heq =>
        have : x.1 + 1 ≤ k := by omega
        simp [Memory.wfFrom, hm.1.1, hm.1.2, ih this hm.2]

/-- A store keeps the canonical form. -/
@[simp] theorem Memory.wf_write {m : Memory} (k : Nat) (v : Byte) (hm : m.wf = true) : (m.write k v).wf = true := by
  unfold Memory.write Memory.wf at *
  split
  · exact Memory.wfFrom_erase k hm
  · next h => exact Memory.wfFrom_put (Nat.zero_le k) h hm

@[simp] theorem Memory.wf_writeList {m : Memory} (k : Nat) (l : List Byte) (hm : m.wf = true) :
    (m.writeList k l).wf = true := by
  induction l generalizing m k with
  | nil => exact hm
  | cons v rest ih => exact ih (k + 1) (Memory.wf_write k v hm)

/-- A run of stores reads back where it lies and nowhere else. -/
theorem Memory.read_writeList (m : Memory) (k j : Nat) (l : List Byte) :
    (m.writeList k l).read j = if k ≤ j ∧ j < k + l.length then l.getD (j - k) 0 else m.read j := by
  induction l generalizing m k with
  | nil => simp [Memory.writeList]
  | cons v rest ih =>
    simp only [Memory.writeList, ih, List.length_cons, Memory.read_write]
    by_cases h : j = k
    · subst h; simp
    · by_cases h2 : k + 1 ≤ j ∧ j < k + 1 + rest.length
      · have h3 : k ≤ j ∧ j < k + (rest.length + 1) := by omega
        have h4 : j - k = (j - (k + 1)) + 1 := by omega
        rw [if_pos h2, if_pos h3, h4, List.getD_cons_succ]
      · have h3 : ¬(k ≤ j ∧ j < k + (rest.length + 1)) := by omega
        rw [if_neg h2, if_neg h3, if_neg h]

/-- A store of what is already there leaves the memory equal. -/
theorem Memory.write_unlisted_nil (k : Nat) : Memory.write [] k (Memory.unlisted k) = [] := by
  simp [Memory.write, Memory.erase]

end Sys2Proof.Machine
end

