-- ==== Sys2Proof/Laws/State.lean ====
section
/-! SUPPORT. The fields of the state after each named update, and the registers after each register write: one fact
per field per update, so that no later proof unfolds a record update. -/

namespace Sys2Proof.Machine

/-! ## Halves of a word (R31) -/

@[simp] theorem hiByte_mkWord (h l : Byte) : hiByte (mkWord h l) = h := by
  apply BitVec.eq_of_getLsbD_eq; intro i hi
  simp only [hiByte, mkWord, BitVec.getLsbD_extractLsb', BitVec.getLsbD_append]
  simp; omega

@[simp] theorem loByte_mkWord (h l : Byte) : loByte (mkWord h l) = l := by
  apply BitVec.eq_of_getLsbD_eq; intro i hi
  simp only [loByte, mkWord, BitVec.getLsbD_extractLsb', BitVec.getLsbD_append]
  simp [hi]

@[simp] theorem mkWord_halves (v : Word) : mkWord (hiByte v) (loByte v) = v := by
  apply BitVec.eq_of_getLsbD_eq; intro i hi
  simp only [hiByte, loByte, mkWord, BitVec.getLsbD_extractLsb', BitVec.getLsbD_append]
  by_cases h : i < 8
  · simp [h]
  · simp [h, show i - 8 < 8 by omega, show 8 + (i - 8) = i by omega]

/-! ## Updates of the state -/

@[simp] theorem setPc_cpu (v : Word) (s : State) :
    (setPc v s).cpu = { s.cpu with pc := v } := rfl

@[simp] theorem setPc_frame (v : Word) (s : State) :
    (setPc v s).params = s.params ∧ (setPc v s).acct = s.acct ∧ (setPc v s).irq = s.irq ∧
    (setPc v s).joypad = s.joypad ∧ (setPc v s).serial = s.serial ∧ (setPc v s).timer = s.timer ∧
    (setPc v s).ppu = s.ppu ∧ (setPc v s).dma = s.dma ∧ (setPc v s).hdma = s.hdma ∧ (setPc v s).color = s.color ∧
    (setPc v s).bootMapped = s.bootMapped ∧ (setPc v s).cart = s.cart ∧ (setPc v s).mapper = s.mapper ∧
    (setPc v s).mem = s.mem ∧ (setPc v s).audio = s.audio ∧ (setPc v s).video = s.video ∧
    (setPc v s).carry = s.carry ∧
    (setPc v s).frameCalled = s.frameCalled :=
  ⟨rfl, rfl, rfl, rfl, rfl, rfl, rfl, rfl, rfl, rfl, rfl, rfl, rfl, rfl, rfl, rfl, rfl, rfl⟩

@[simp] theorem setA_cpu (v : Byte) (s : State) :
    (setA v s).cpu = { s.cpu with a := v } := rfl

@[simp] theorem setA_frame (v : Byte) (s : State) :
    (setA v s).params = s.params ∧ (setA v s).acct = s.acct ∧ (setA v s).irq = s.irq ∧
    (setA v s).joypad = s.joypad ∧ (setA v s).serial = s.serial ∧ (setA v s).timer = s.timer ∧
    (setA v s).ppu = s.ppu ∧ (setA v s).dma = s.dma ∧ (setA v s).hdma = s.hdma ∧ (setA v s).color = s.color ∧
    (setA v s).bootMapped = s.bootMapped ∧ (setA v s).cart = s.cart ∧ (setA v s).mapper = s.mapper ∧
    (setA v s).mem = s.mem ∧ (setA v s).audio = s.audio ∧ (setA v s).video = s.video ∧
    (setA v s).carry = s.carry ∧
    (setA v s).frameCalled = s.frameCalled :=
  ⟨rfl, rfl, rfl, rfl, rfl, rfl, rfl, rfl, rfl, rfl, rfl, rfl, rfl, rfl, rfl, rfl, rfl, rfl⟩

@[simp] theorem setFlags_cpu (f : Flags) (s : State) :
    (setFlags f s).cpu = { s.cpu with f := f } := rfl

@[simp] theorem setFlags_frame (f : Flags) (s : State) :
    (setFlags f s).params = s.params ∧ (setFlags f s).acct = s.acct ∧ (setFlags f s).irq = s.irq ∧
    (setFlags f s).joypad = s.joypad ∧ (setFlags f s).serial = s.serial ∧ (setFlags f s).timer = s.timer ∧
    (setFlags f s).ppu = s.ppu ∧ (setFlags f s).dma = s.dma ∧ (setFlags f s).hdma = s.hdma ∧
    (setFlags f s).color = s.color ∧ (setFlags f s).bootMapped = s.bootMapped ∧ (setFlags f s).cart = s.cart ∧
    (setFlags f s).mapper = s.mapper ∧ (setFlags f s).mem = s.mem ∧ (setFlags f s).audio = s.audio ∧
    (setFlags f s).video = s.video ∧ (setFlags f s).carry = s.carry ∧
    (setFlags f s).frameCalled = s.frameCalled :=
  ⟨rfl, rfl, rfl, rfl, rfl, rfl, rfl, rfl, rfl, rfl, rfl, rfl, rfl, rfl, rfl, rfl, rfl, rfl⟩

@[simp] theorem setR8_cpu (r : Reg8) (v : Byte) (s : State) :
    (setR8 r v s).cpu = s.cpu.setR8 r v := rfl

@[simp] theorem setR8_frame (r : Reg8) (v : Byte) (s : State) :
    (setR8 r v s).params = s.params ∧ (setR8 r v s).acct = s.acct ∧ (setR8 r v s).irq = s.irq ∧
    (setR8 r v s).joypad = s.joypad ∧ (setR8 r v s).serial = s.serial ∧ (setR8 r v s).timer = s.timer ∧
    (setR8 r v s).ppu = s.ppu ∧ (setR8 r v s).dma = s.dma ∧ (setR8 r v s).hdma = s.hdma ∧
    (setR8 r v s).color = s.color ∧ (setR8 r v s).bootMapped = s.bootMapped ∧ (setR8 r v s).cart = s.cart ∧
    (setR8 r v s).mapper = s.mapper ∧ (setR8 r v s).mem = s.mem ∧ (setR8 r v s).audio = s.audio ∧
    (setR8 r v s).video = s.video ∧ (setR8 r v s).carry = s.carry ∧
    (setR8 r v s).frameCalled = s.frameCalled :=
  ⟨rfl, rfl, rfl, rfl, rfl, rfl, rfl, rfl, rfl, rfl, rfl, rfl, rfl, rfl, rfl, rfl, rfl, rfl⟩

@[simp] theorem setPair_cpu (dd : Pair) (v : Word) (s : State) :
    (setPair dd v s).cpu = s.cpu.setPair dd v := rfl

@[simp] theorem setPair_frame (dd : Pair) (v : Word) (s : State) :
    (setPair dd v s).params = s.params ∧ (setPair dd v s).acct = s.acct ∧ (setPair dd v s).irq = s.irq ∧
    (setPair dd v s).joypad = s.joypad ∧ (setPair dd v s).serial = s.serial ∧ (setPair dd v s).timer = s.timer ∧
    (setPair dd v s).ppu = s.ppu ∧ (setPair dd v s).dma = s.dma ∧ (setPair dd v s).hdma = s.hdma ∧
    (setPair dd v s).color = s.color ∧ (setPair dd v s).bootMapped = s.bootMapped ∧
    (setPair dd v s).cart = s.cart ∧ (setPair dd v s).mapper = s.mapper ∧ (setPair dd v s).mem = s.mem ∧
    (setPair dd v s).audio = s.audio ∧ (setPair dd v s).video = s.video ∧ (setPair dd v s).carry = s.carry ∧
    (setPair dd v s).frameCalled = s.frameCalled :=
  ⟨rfl, rfl, rfl, rfl, rfl, rfl, rfl, rfl, rfl, rfl, rfl, rfl, rfl, rfl, rfl, rfl, rfl, rfl⟩

@[simp] theorem setStackPair_cpu (qq : StackPair) (v : Word) (s : State) :
    (setStackPair qq v s).cpu = s.cpu.setStackPair qq v := rfl

@[simp] theorem setStackPair_frame (qq : StackPair) (v : Word) (s : State) :
    (setStackPair qq v s).params = s.params ∧ (setStackPair qq v s).acct = s.acct ∧
    (setStackPair qq v s).irq = s.irq ∧ (setStackPair qq v s).joypad = s.joypad ∧
    (setStackPair qq v s).serial = s.serial ∧ (setStackPair qq v s).timer = s.timer ∧
    (setStackPair qq v s).ppu = s.ppu ∧ (setStackPair qq v s).dma = s.dma ∧ (setStackPair qq v s).hdma = s.hdma ∧
    (setStackPair qq v s).color = s.color ∧ (setStackPair qq v s).bootMapped = s.bootMapped ∧
    (setStackPair qq v s).cart = s.cart ∧ (setStackPair qq v s).mapper = s.mapper ∧
    (setStackPair qq v s).mem = s.mem ∧ (setStackPair qq v s).audio = s.audio ∧
    (setStackPair qq v s).video = s.video ∧ (setStackPair qq v s).carry = s.carry ∧
    (setStackPair qq v s).frameCalled = s.frameCalled :=
  ⟨rfl, rfl, rfl, rfl, rfl, rfl, rfl, rfl, rfl, rfl, rfl, rfl, rfl, rfl, rfl, rfl, rfl, rfl⟩

@[simp] theorem setHl_cpu (v : Word) (s : State) :
    (setHl v s).cpu = s.cpu.setHl v := rfl

@[simp] theorem setHl_frame (v : Word) (s : State) :
    (setHl v s).params = s.params ∧ (setHl v s).acct = s.acct ∧ (setHl v s).irq = s.irq ∧
    (setHl v s).joypad = s.joypad ∧ (setHl v s).serial = s.serial ∧ (setHl v s).timer = s.timer ∧
    (setHl v s).ppu = s.ppu ∧ (setHl v s).dma = s.dma ∧ (setHl v s).hdma = s.hdma ∧ (setHl v s).color = s.color ∧
    (setHl v s).bootMapped = s.bootMapped ∧ (setHl v s).cart = s.cart ∧ (setHl v s).mapper = s.mapper ∧
    (setHl v s).mem = s.mem ∧ (setHl v s).audio = s.audio ∧ (setHl v s).video = s.video ∧
    (setHl v s).carry = s.carry ∧
    (setHl v s).frameCalled = s.frameCalled :=
  ⟨rfl, rfl, rfl, rfl, rfl, rfl, rfl, rfl, rfl, rfl, rfl, rfl, rfl, rfl, rfl, rfl, rfl, rfl⟩

@[simp] theorem setSp_cpu (v : Word) (s : State) :
    (setSp v s).cpu = { s.cpu with sp := v } := rfl

@[simp] theorem setSp_frame (v : Word) (s : State) :
    (setSp v s).params = s.params ∧ (setSp v s).acct = s.acct ∧ (setSp v s).irq = s.irq ∧
    (setSp v s).joypad = s.joypad ∧ (setSp v s).serial = s.serial ∧ (setSp v s).timer = s.timer ∧
    (setSp v s).ppu = s.ppu ∧ (setSp v s).dma = s.dma ∧ (setSp v s).hdma = s.hdma ∧ (setSp v s).color = s.color ∧
    (setSp v s).bootMapped = s.bootMapped ∧ (setSp v s).cart = s.cart ∧ (setSp v s).mapper = s.mapper ∧
    (setSp v s).mem = s.mem ∧ (setSp v s).audio = s.audio ∧ (setSp v s).video = s.video ∧
    (setSp v s).carry = s.carry ∧
    (setSp v s).frameCalled = s.frameCalled :=
  ⟨rfl, rfl, rfl, rfl, rfl, rfl, rfl, rfl, rfl, rfl, rfl, rfl, rfl, rfl, rfl, rfl, rfl, rfl⟩

@[simp] theorem dropTop_cpu (s : State) :
    (dropTop s).cpu = { s.cpu with sp := s.cpu.sp + 2 } := rfl

@[simp] theorem dropTop_frame (s : State) :
    (dropTop s).params = s.params ∧ (dropTop s).acct = s.acct ∧ (dropTop s).irq = s.irq ∧
    (dropTop s).joypad = s.joypad ∧ (dropTop s).serial = s.serial ∧ (dropTop s).timer = s.timer ∧
    (dropTop s).ppu = s.ppu ∧ (dropTop s).dma = s.dma ∧ (dropTop s).hdma = s.hdma ∧ (dropTop s).color = s.color ∧
    (dropTop s).bootMapped = s.bootMapped ∧ (dropTop s).cart = s.cart ∧ (dropTop s).mapper = s.mapper ∧
    (dropTop s).mem = s.mem ∧ (dropTop s).audio = s.audio ∧ (dropTop s).video = s.video ∧
    (dropTop s).carry = s.carry ∧
    (dropTop s).frameCalled = s.frameCalled :=
  ⟨rfl, rfl, rfl, rfl, rfl, rfl, rfl, rfl, rfl, rfl, rfl, rfl, rfl, rfl, rfl, rfl, rfl, rfl⟩

@[simp] theorem wake_cpu (s : State) :
    (wake s).cpu = { s.cpu with halted := false } := rfl

@[simp] theorem wake_frame (s : State) :
    (wake s).params = s.params ∧ (wake s).acct = s.acct ∧ (wake s).irq = s.irq ∧ (wake s).joypad = s.joypad ∧
    (wake s).serial = s.serial ∧ (wake s).timer = s.timer ∧ (wake s).ppu = s.ppu ∧ (wake s).dma = s.dma ∧
    (wake s).hdma = s.hdma ∧ (wake s).color = s.color ∧ (wake s).bootMapped = s.bootMapped ∧
    (wake s).cart = s.cart ∧ (wake s).mapper = s.mapper ∧ (wake s).mem = s.mem ∧ (wake s).audio = s.audio ∧
    (wake s).video = s.video ∧ (wake s).carry = s.carry ∧
    (wake s).frameCalled = s.frameCalled :=
  ⟨rfl, rfl, rfl, rfl, rfl, rfl, rfl, rfl, rfl, rfl, rfl, rfl, rfl, rfl, rfl, rfl, rfl, rfl⟩

@[simp] theorem beginStep_acct (s : State) :
    (beginStep s).acct = { cycles := 0, gdmaCycles := 0, normalCycles := 0 } := rfl

@[simp] theorem beginStep_frame (s : State) :
    (beginStep s).params = s.params ∧ (beginStep s).cpu = s.cpu ∧ (beginStep s).irq = s.irq ∧
    (beginStep s).joypad = s.joypad ∧ (beginStep s).serial = s.serial ∧ (beginStep s).timer = s.timer ∧
    (beginStep s).ppu = s.ppu ∧ (beginStep s).dma = s.dma ∧ (beginStep s).hdma = s.hdma ∧
    (beginStep s).color = s.color ∧ (beginStep s).bootMapped = s.bootMapped ∧ (beginStep s).cart = s.cart ∧
    (beginStep s).mapper = s.mapper ∧ (beginStep s).mem = s.mem ∧ (beginStep s).audio = s.audio ∧
    (beginStep s).video = s.video ∧ (beginStep s).carry = s.carry ∧
    (beginStep s).frameCalled = s.frameCalled :=
  ⟨rfl, rfl, rfl, rfl, rfl, rfl, rfl, rfl, rfl, rfl, rfl, rfl, rfl, rfl, rfl, rfl, rfl, rfl⟩

@[simp] theorem request_irq (k : Source) (s : State) :
    (request k s).irq = { s.irq with iflag := s.irq.iflag ||| BitVec.twoPow 5 k.bit } := rfl

@[simp] theorem request_frame (k : Source) (s : State) :
    (request k s).params = s.params ∧ (request k s).cpu = s.cpu ∧ (request k s).acct = s.acct ∧
    (request k s).joypad = s.joypad ∧ (request k s).serial = s.serial ∧ (request k s).timer = s.timer ∧
    (request k s).ppu = s.ppu ∧ (request k s).dma = s.dma ∧ (request k s).hdma = s.hdma ∧
    (request k s).color = s.color ∧ (request k s).bootMapped = s.bootMapped ∧ (request k s).cart = s.cart ∧
    (request k s).mapper = s.mapper ∧ (request k s).mem = s.mem ∧ (request k s).audio = s.audio ∧
    (request k s).video = s.video ∧ (request k s).carry = s.carry ∧
    (request k s).frameCalled = s.frameCalled :=
  ⟨rfl, rfl, rfl, rfl, rfl, rfl, rfl, rfl, rfl, rfl, rfl, rfl, rfl, rfl, rfl, rfl, rfl, rfl⟩

@[simp] theorem clearPending_irq (k : Source) (s : State) :
    (clearPending k s).irq = { s.irq with iflag := s.irq.iflag &&& ~~~(BitVec.twoPow 5 k.bit) } := rfl

@[simp] theorem clearPending_frame (k : Source) (s : State) :
    (clearPending k s).params = s.params ∧ (clearPending k s).cpu = s.cpu ∧ (clearPending k s).acct = s.acct ∧
    (clearPending k s).joypad = s.joypad ∧ (clearPending k s).serial = s.serial ∧
    (clearPending k s).timer = s.timer ∧ (clearPending k s).ppu = s.ppu ∧ (clearPending k s).dma = s.dma ∧
    (clearPending k s).hdma = s.hdma ∧ (clearPending k s).color = s.color ∧
    (clearPending k s).bootMapped = s.bootMapped ∧ (clearPending k s).cart = s.cart ∧
    (clearPending k s).mapper = s.mapper ∧ (clearPending k s).mem = s.mem ∧ (clearPending k s).audio = s.audio ∧
    (clearPending k s).video = s.video ∧ (clearPending k s).carry = s.carry ∧
    (clearPending k s).frameCalled = s.frameCalled :=
  ⟨rfl, rfl, rfl, rfl, rfl, rfl, rfl, rfl, rfl, rfl, rfl, rfl, rfl, rfl, rfl, rfl, rfl, rfl⟩

@[simp] theorem afterFetch_frame (i : Instr) (s : State) :
    (afterFetch i s).params = s.params ∧ (afterFetch i s).acct = s.acct ∧ (afterFetch i s).irq = s.irq ∧
    (afterFetch i s).joypad = s.joypad ∧ (afterFetch i s).serial = s.serial ∧ (afterFetch i s).timer = s.timer ∧
    (afterFetch i s).ppu = s.ppu ∧ (afterFetch i s).dma = s.dma ∧ (afterFetch i s).hdma = s.hdma ∧
    (afterFetch i s).color = s.color ∧ (afterFetch i s).bootMapped = s.bootMapped ∧
    (afterFetch i s).cart = s.cart ∧ (afterFetch i s).mapper = s.mapper ∧ (afterFetch i s).mem = s.mem ∧
    (afterFetch i s).audio = s.audio ∧ (afterFetch i s).video = s.video ∧ (afterFetch i s).carry = s.carry ∧
    (afterFetch i s).frameCalled = s.frameCalled :=
  ⟨rfl, rfl, rfl, rfl, rfl, rfl, rfl, rfl, rfl, rfl, rfl, rfl, rfl, rfl, rfl, rfl, rfl, rfl⟩

@[simp] theorem afterFetch_cpu (i : Instr) (s : State) :
    (afterFetch i s).cpu = { s.cpu with
      pc := s.cpu.pc + BitVec.ofNat 16 (pcAdvance s i.length), haltBugPending := false } := rfl

/-- EI's delay changes IME and IME_DELAY only. -/
theorem eiDelay_eq (delay : Bool) (s : State) : eiDelay delay s = { s with cpu := (eiDelay delay s).cpu } := by
  unfold eiDelay; split <;> rfl

@[simp] theorem eiDelay_cpu (delay : Bool) (s : State) :
    (eiDelay delay s).cpu = { s.cpu with
      ime := s.cpu.ime || (delay && s.cpu.imeDelay)
      imeDelay := s.cpu.imeDelay && !(delay && s.cpu.imeDelay) } := by
  unfold eiDelay
  cases delay <;> rcases s with ⟨_, c⟩ <;> rcases c <;> simp only <;> split <;> simp_all

@[simp] theorem eiDelay_frame (delay : Bool) (s : State) :
    (eiDelay delay s).params = s.params ∧ (eiDelay delay s).acct = s.acct ∧ (eiDelay delay s).irq = s.irq ∧
    (eiDelay delay s).joypad = s.joypad ∧ (eiDelay delay s).serial = s.serial ∧
    (eiDelay delay s).timer = s.timer ∧ (eiDelay delay s).ppu = s.ppu ∧ (eiDelay delay s).dma = s.dma ∧
    (eiDelay delay s).hdma = s.hdma ∧ (eiDelay delay s).color = s.color ∧
    (eiDelay delay s).bootMapped = s.bootMapped ∧ (eiDelay delay s).cart = s.cart ∧
    (eiDelay delay s).mapper = s.mapper ∧ (eiDelay delay s).mem = s.mem ∧ (eiDelay delay s).audio = s.audio ∧
    (eiDelay delay s).video = s.video ∧ (eiDelay delay s).carry = s.carry ∧
    (eiDelay delay s).frameCalled = s.frameCalled :=
  by unfold eiDelay; split <;> simp

/-! ## Registers -/

@[simp] theorem Cpu.getR8_setR8 (x : Cpu) (r r' : Reg8) (v : Byte) :
    (x.setR8 r v).getR8 r' = if r' = r then v else x.getR8 r' := by
  cases r <;> cases r' <;> rfl

@[simp] theorem Cpu.setR8_frame (x : Cpu) (r : Reg8) (v : Byte) :
    (x.setR8 r v).f = x.f ∧ (x.setR8 r v).sp = x.sp ∧ (x.setR8 r v).pc = x.pc ∧ (x.setR8 r v).ime = x.ime ∧
    (x.setR8 r v).imeDelay = x.imeDelay ∧ (x.setR8 r v).halted = x.halted ∧ (x.setR8 r v).stopped = x.stopped ∧
    (x.setR8 r v).haltBugPending = x.haltBugPending ∧ (x.setR8 r v).locked = x.locked ∧
    (x.setR8 r v).lockOpcode = x.lockOpcode ∧ (x.setR8 r v).doubleSpeed = x.doubleSpeed := by
  cases r <;> simp [Cpu.setR8]

@[simp] theorem Cpu.setPair_frame (x : Cpu) (dd : Pair) (v : Word) :
    (x.setPair dd v).a = x.a ∧ (x.setPair dd v).f = x.f ∧ (x.setPair dd v).pc = x.pc ∧
    (x.setPair dd v).ime = x.ime ∧ (x.setPair dd v).imeDelay = x.imeDelay ∧ (x.setPair dd v).halted = x.halted ∧
    (x.setPair dd v).stopped = x.stopped ∧ (x.setPair dd v).haltBugPending = x.haltBugPending ∧
    (x.setPair dd v).locked = x.locked ∧ (x.setPair dd v).lockOpcode = x.lockOpcode ∧
    (x.setPair dd v).doubleSpeed = x.doubleSpeed := by
  cases dd <;> simp [Cpu.setPair, Cpu.setBc, Cpu.setDe, Cpu.setHl]

@[simp] theorem Cpu.setStackPair_frame (x : Cpu) (qq : StackPair) (v : Word) :
    (x.setStackPair qq v).sp = x.sp ∧ (x.setStackPair qq v).pc = x.pc ∧ (x.setStackPair qq v).ime = x.ime ∧
    (x.setStackPair qq v).imeDelay = x.imeDelay ∧ (x.setStackPair qq v).halted = x.halted ∧
    (x.setStackPair qq v).stopped = x.stopped ∧ (x.setStackPair qq v).haltBugPending = x.haltBugPending ∧
    (x.setStackPair qq v).locked = x.locked ∧ (x.setStackPair qq v).lockOpcode = x.lockOpcode ∧
    (x.setStackPair qq v).doubleSpeed = x.doubleSpeed := by
  cases qq <;> simp [Cpu.setStackPair, Cpu.setBc, Cpu.setDe, Cpu.setHl, Cpu.setAf]

@[simp] theorem Cpu.getPair_setPair (x : Cpu) (dd dd' : Pair) (v : Word) :
    (x.setPair dd v).getPair dd' = if dd' = dd then v else x.getPair dd' := by
  cases dd <;> cases dd' <;>
    simp [Cpu.setPair, Cpu.getPair, Cpu.setBc, Cpu.setDe, Cpu.setHl, Cpu.bc, Cpu.de, Cpu.hl]

@[simp] theorem Cpu.hl_setHl (x : Cpu) (v : Word) : (x.setHl v).hl = v := by simp [Cpu.setHl, Cpu.hl]

/-- F has no bit below bit 4, and the four above are the flags (R102). -/
@[simp] theorem Flags.ofByte_toByte (f : Flags) : Flags.ofByte f.toByte = f := by
  rcases f with ⟨z, n, h, c⟩; revert z n h c; decide

theorem Flags.toByte_low (f : Flags) : f.toByte &&& 0x0F = 0 := by
  rcases f with ⟨z, n, h, c⟩; revert z n h c; decide

theorem Flags.toByte_ofByte (v : Byte) : (Flags.ofByte v).toByte = v &&& 0xF0 := by
  revert v; decide +kernel

/-- A register's value depends on the seven registers only. -/
@[simp] theorem Cpu.getR8_mk (x : Cpu) (r : Reg8) (f : Flags) (sp pc : Word) (op : Byte) (i id ha st hb lo ds : Bool) :
    (Cpu.mk x.a f x.b x.c x.d x.e x.h x.l sp pc i id ha st hb lo op ds).getR8 r = x.getR8 r := by
  cases r <;> rfl

/-- A pair's value depends on its two halves, or on SP. -/
@[simp] theorem Cpu.getPair_mk (x : Cpu) (dd : Pair) (a : Byte) (f : Flags) (pc : Word) (op : Byte)
    (i id ha st hb lo ds : Bool) :
    (Cpu.mk a f x.b x.c x.d x.e x.h x.l x.sp pc i id ha st hb lo op ds).getPair dd = x.getPair dd := by
  cases dd <;> rfl

@[simp] theorem done_eq (n : Nat) (s : State) : done n s = .next { s with acct.cycles := n } := rfl

end Sys2Proof.Machine
end

