-- ==== Sys2Proof/Laws/Bus.lean ====
section
/-! SUPPORT. What a write through the dispatcher can do. Every operation here leaves the processor, the parameters,
the cartridge's sizes, the buttons, the rows handed out, the carry and the frame mark alone; each keeps the canonical form of memory
and never writes a place of ROM or BOOT_IMAGE. -/

namespace Sys2Proof.Machine

/-! ## What a write leaves alone -/

/-- The fields no write through the dispatcher changes. -/
structure SameCore (s t : State) : Prop where
  params : t.params = s.params
  cpu : t.cpu = s.cpu
  cycles : t.acct.cycles = s.acct.cycles
  normalCycles : t.acct.normalCycles = s.acct.normalCycles
  pressed : t.joypad.pressed = s.joypad.pressed
  cart : t.cart = s.cart
  video : t.video = s.video
  carry : t.carry = s.carry
  frameCalled : t.frameCalled = s.frameCalled

theorem SameCore.refl (s : State) : SameCore s s := ⟨rfl, rfl, rfl, rfl, rfl, rfl, rfl, rfl, rfl⟩

theorem SameCore.trans {s t u : State} (h : SameCore s t) (k : SameCore t u) : SameCore s u :=
  ⟨k.1.trans h.1, k.2.trans h.2, k.3.trans h.3, k.4.trans h.4, k.5.trans h.5, k.6.trans h.6, k.7.trans h.7,
    k.8.trans h.8, k.9.trans h.9⟩

theorem SameCore.request {s t : State} (h : SameCore s t) (k : Source) : SameCore s (request k t) :=
  h.trans ⟨rfl, rfl, rfl, rfl, rfl, rfl, rfl, rfl, rfl⟩

theorem sameCore_timaInc (s : State) : SameCore s (timaInc s) := by
  unfold timaInc; split <;> constructor <;> rfl

theorem sameCore_resetDivider (s : State) : SameCore s (resetDivider s) := by
  unfold resetDivider
  simp only
  split
  · exact SameCore.trans (t := { s with timer.div16 := 0 }) (by constructor <;> rfl) (sameCore_timaInc _)
  · constructor <;> rfl

theorem sameCore_writeTac (v : Byte) (s : State) : SameCore s (writeTac v s) := by
  unfold writeTac
  simp only
  split
  · exact SameCore.trans (t := { s with timer.tac := v.extractLsb' 0 3 }) (by constructor <;> rfl)
      (sameCore_timaInc _)
  · constructor <;> rfl

theorem sameCore_writeSc (v : Byte) (s : State) : SameCore s (writeSc v s) := by
  unfold writeSc
  simp only
  split
  · split <;> constructor <;> rfl
  · constructor <;> rfl

/-- An OAM DMA copy changes memory only. -/
theorem oamDmaFrom_eq (base : Word) (i n : Nat) (s : State) :
    oamDmaFrom base i n s = { s with mem := (oamDmaFrom base i n s).mem } := by
  induction n generalizing i s with
  | zero => simp only [oamDmaFrom]
  | succ n ih => simp only [oamDmaFrom]; rw [ih]

/-- An HDMA copy changes memory only. -/
theorem hdmaCopyFrom_eq (src : Word) (dst i n : Nat) (s : State) :
    hdmaCopyFrom src dst i n s = { s with mem := (hdmaCopyFrom src dst i n s).mem } := by
  induction n generalizing i s with
  | zero => rfl
  | succ n ih => simp only [hdmaCopyFrom]; rw [ih]

theorem writeDma_eq (v : Byte) (s : State) :
    writeDma v s = { s with dma := v, mem := (writeDma v s).mem } := by
  unfold writeDma; rw [oamDmaFrom_eq]

/-- A block changes memory and the four HDMA registers, as R225 gives them. -/
theorem hdmaBlock_eq (s : State) :
    hdmaBlock s = { s with
      mem := (hdmaBlock s).mem
      hdma := { s.hdma with src := s.hdma.src + 16, dst := s.hdma.dst + 16, len := s.hdma.len - 1 } } := by
  unfold hdmaBlock; simp only; rw [hdmaCopyFrom_eq]

theorem sameCore_hdmaBlock (s : State) : SameCore s (hdmaBlock s) := by
  rw [hdmaBlock_eq]; constructor <;> rfl

theorem sameCore_hdmaBlocks (n : Nat) (s : State) : SameCore s (repeatN hdmaBlock n s) := by
  induction n generalizing s with
  | zero => exact SameCore.refl s
  | succ n ih => exact (sameCore_hdmaBlock s).trans (ih _)

theorem sameCore_writeHdma5 (v : Byte) (s : State) : SameCore s (writeHdma5 v s) := by
  unfold writeHdma5
  simp only
  split
  · constructor <;> rfl
  · split
    · constructor <;> rfl
    · refine SameCore.trans (t := { s with hdma.len := v.extractLsb' 0 7 }) (by constructor <;> rfl) ?_
      refine SameCore.trans (sameCore_hdmaBlocks ((v.extractLsb' 0 7).toNat + 1) _) ?_
      constructor <;> rfl

theorem sameCore_hblankHdma (s : State) : SameCore s (hblankHdma s) := by
  unfold hblankHdma
  split
  · simp only
    split
    · exact (sameCore_hdmaBlock s).trans (by constructor <;> rfl)
    · exact sameCore_hdmaBlock s
  · exact SameCore.refl s

theorem sameCore_ioWrite (s : State) (a : Word) (v : Byte) : SameCore s (ioWrite s a v) := by
  unfold ioWrite
  split
  all_goals first
    | (rw [writeDma_eq]; constructor <;> rfl)
    | exact SameCore.refl s
    | exact sameCore_writeSc v s
    | exact sameCore_resetDivider s
    | exact sameCore_writeTac v s
    | exact sameCore_writeHdma5 v s
    | (split <;> constructor <;> rfl)
    | (unfold writeBcpd; simp only; split <;> constructor <;> rfl)
    | (unfold writeOcpd; simp only; split <;> constructor <;> rfl)
    | (constructor <;> rfl)

/-- What no write through the dispatcher changes. -/
theorem sameCore_memWrite (s : State) (a : Word) (v : Byte) : SameCore s (memWrite s a v) := by
  unfold memWrite
  split
  all_goals first
    | exact sameCore_ioWrite s a v
    | (constructor <;> rfl)

@[simp] theorem memWrite_cpu (s : State) (a : Word) (v : Byte) : (memWrite s a v).cpu = s.cpu :=
  (sameCore_memWrite s a v).cpu

@[simp] theorem memWrite_params (s : State) (a : Word) (v : Byte) : (memWrite s a v).params = s.params :=
  (sameCore_memWrite s a v).params

@[simp] theorem memWrite_carry (s : State) (a : Word) (v : Byte) : (memWrite s a v).carry = s.carry :=
  (sameCore_memWrite s a v).carry

@[simp] theorem memWrite_frameCalled (s : State) (a : Word) (v : Byte) :
    (memWrite s a v).frameCalled = s.frameCalled := (sameCore_memWrite s a v).frameCalled

@[simp] theorem memWrite_cart (s : State) (a : Word) (v : Byte) : (memWrite s a v).cart = s.cart :=
  (sameCore_memWrite s a v).cart

/-- A push changes SP as R35 says and nothing else of the processor. -/
@[simp] theorem push16_cpu (v : Word) (s : State) : (push16 v s).cpu = { s.cpu with sp := s.cpu.sp - 2 } := by
  simp only [push16, memWrite_cpu, Cpu.mk.injEq, and_self, and_true, true_and]
  bv_omega

/-! ## The processor plays no part in a write -/

/-- Of the processor, a read sees DOUBLE_SPEED only (KEY1, R150). -/
theorem busRead_setCpu (arb : Bool) (s : State) (x : Cpu) (hd : x.doubleSpeed = s.cpu.doubleSpeed) (a : Word) :
    busRead arb { s with cpu := x } a = busRead arb s a := by
  have ht : target arb { s with cpu := x } a = target arb s a := rfl
  unfold busRead
  rw [ht]
  split <;> try rfl
  unfold ioRead
  simp only [hd]
  rfl

theorem oamDmaFrom_setCpu (base : Word) (i n : Nat) (s : State) (x : Cpu) (hd : x.doubleSpeed = s.cpu.doubleSpeed) :
    oamDmaFrom base i n { s with cpu := x } = { oamDmaFrom base i n s with cpu := x } := by
  induction n generalizing i s with
  | zero => simp only [oamDmaFrom]
  | succ n ih =>
    simp only [oamDmaFrom, dmaRead, busRead_setCpu false s x hd]
    exact ih (i + 1) { s with mem := s.mem.write (oamBase + i) (busRead false s (base + BitVec.ofNat 16 i)) } hd

theorem hdmaCopyFrom_setCpu (src : Word) (dst i n : Nat) (s : State) (x : Cpu)
    (hd : x.doubleSpeed = s.cpu.doubleSpeed) :
    hdmaCopyFrom src dst i n { s with cpu := x } = { hdmaCopyFrom src dst i n s with cpu := x } := by
  induction n generalizing i s with
  | zero => rfl
  | succ n ih =>
    simp only [hdmaCopyFrom, dmaRead, busRead_setCpu false s x hd]
    exact ih (i + 1) { s with mem := s.mem.write (dst + i) (busRead false s (src + BitVec.ofNat 16 i)) } hd

theorem hdmaBlock_setCpu (s : State) (x : Cpu) (hd : x.doubleSpeed = s.cpu.doubleSpeed) :
    hdmaBlock { s with cpu := x } = { hdmaBlock s with cpu := x } := by
  unfold hdmaBlock
  simp only [hdmaCopyFrom_setCpu _ _ _ _ s x hd]

theorem repeatN_hdmaBlock_setCpu (n : Nat) (s : State) (x : Cpu) (hd : x.doubleSpeed = s.cpu.doubleSpeed) :
    repeatN hdmaBlock n { s with cpu := x } = { repeatN hdmaBlock n s with cpu := x } := by
  induction n generalizing s with
  | zero => rfl
  | succ n ih =>
    simp only [repeatN]
    rw [hdmaBlock_setCpu s x hd]
    exact ih _ (by rw [hdmaBlock_eq]; exact hd)

theorem writeHdma5_setCpu (v : Byte) (s : State) (x : Cpu) (hd : x.doubleSpeed = s.cpu.doubleSpeed) :
    writeHdma5 v { s with cpu := x } = { writeHdma5 v s with cpu := x } := by
  unfold writeHdma5
  simp only
  split
  · rfl
  · split
    · rfl
    · have hc := repeatN_hdmaBlock_setCpu ((v.extractLsb' 0 7).toNat + 1)
        { s with hdma.len := v.extractLsb' 0 7 } x hd
      have e : ∀ n (u : State), (repeatN hdmaBlock n u).cpu = u.cpu := by
        intro n; induction n with
        | zero => intro u; rfl
        | succ n ih => intro u; simp only [repeatN]; rw [ih]; rw [hdmaBlock_eq]
      simp only at hc
      rw [hc]
      simp only [e, hd]

/-- The processor's registers play no part in a write, and no write changes them. -/
theorem memWrite_setCpu (s : State) (x : Cpu) (hd : x.doubleSpeed = s.cpu.doubleSpeed) (a : Word) (v : Byte) :
    memWrite { s with cpu := x } a v = { memWrite s a v with cpu := x } := by
  have ht : target true { s with cpu := x } a = target true s a := rfl
  unfold memWrite
  rw [ht]
  split <;> try rfl
  unfold ioWrite
  simp only
  split <;> try rfl
  · unfold writeSc; simp only; split
    · split <;> rfl
    · rfl
  · unfold resetDivider; simp only; split
    · unfold timaInc; simp only; split <;> rfl
    · rfl
  · unfold writeTac; simp only; split
    · unfold timaInc; simp only; split <;> rfl
    · rfl
  · unfold writeDma
    exact oamDmaFrom_setCpu _ _ _ { s with dma := v } x hd
  · split <;> rfl
  · exact writeHdma5_setCpu _ _ x hd
  · unfold writeBcpd; have hp : ppuOwns { s with cpu := x } .palette = ppuOwns s .palette := rfl
    simp only [hp]; split <;> rfl
  · unfold writeOcpd; have hp : ppuOwns { s with cpu := x } .palette = ppuOwns s .palette := rfl
    simp only [hp]; split <;> rfl
/-- A push, with the processor taken out of the two writes (R35). -/
theorem push16_eq (v : Word) (s : State) :
    push16 v s = { memWrite (memWrite s (s.cpu.sp - 1) (hiByte v)) (s.cpu.sp - 2) (loByte v) with
      cpu := { s.cpu with sp := s.cpu.sp - 2 } } := by
  have e : s.cpu.sp - 1 - 1 = s.cpu.sp - 2 := by bv_omega
  unfold push16
  simp only [memWrite_cpu, e]
  rw [memWrite_setCpu s { s.cpu with sp := s.cpu.sp - 1 } rfl]
  exact memWrite_setCpu (memWrite s (s.cpu.sp - 1) (hiByte v)) { s.cpu with sp := s.cpu.sp - 2 }
    (by rw [memWrite_cpu]) _ _

/-! ## A store to RAM -/

/-- A store that reaches RAM writes that one byte and nothing else. -/
theorem memWrite_of_storeCell {s : State} {a : Word} {v : Byte} {k : Nat} (h : storeCell s a = some k) :
    memWrite s a v = { s with mem := s.mem.write k v } := by
  unfold storeCell at h
  unfold memWrite
  split at h
  · next hk => rw [hk]; simp_all
  · exact absurd h (by simp)

/-- The address map does not depend on what memory holds. -/
@[simp] theorem target_mem (arb : Bool) (s : State) (m : Memory) (a : Word) :
    target arb { s with mem := m } a = target arb s a := rfl

@[simp] theorem storeCell_mem (s : State) (m : Memory) (a : Word) :
    storeCell { s with mem := m } a = storeCell s a := rfl

/-- A read of an address that shows RAM. -/
theorem memRead_of_storeCell {s : State} {a : Word} {k : Nat} (h : storeCell s a = some k) :
    memRead s a = s.mem.read k := by
  unfold storeCell at h
  unfold memRead busRead
  split at h
  · next hk => rw [hk]; simp_all
  · exact absurd h (by simp)

/-! ## The canonical form of memory -/

theorem wf_oamDmaFrom {s : State} (h : s.mem.wf = true) (base : Word) (i n : Nat) :
    (oamDmaFrom base i n s).mem.wf = true := by
  induction n generalizing i s with
  | zero => simpa only [oamDmaFrom] using h
  | succ n ih => simp only [oamDmaFrom]; exact ih (Memory.wf_write _ _ h) _

theorem wf_writeDma {s : State} (h : s.mem.wf = true) (v : Byte) : (writeDma v s).mem.wf = true := by
  unfold writeDma; exact wf_oamDmaFrom (s := { s with dma := v }) h _ _ _

theorem wf_hdmaCopyFrom {s : State} (h : s.mem.wf = true) (src : Word) (dst i n : Nat) :
    (hdmaCopyFrom src dst i n s).mem.wf = true := by
  induction n generalizing i s with
  | zero => exact h
  | succ n ih => exact ih (Memory.wf_write _ _ h) _

theorem wf_hdmaBlock {s : State} (h : s.mem.wf = true) : (hdmaBlock s).mem.wf = true :=
  wf_hdmaCopyFrom h _ _ _ _

theorem wf_hdmaBlocks {s : State} (h : s.mem.wf = true) (n : Nat) : (repeatN hdmaBlock n s).mem.wf = true := by
  induction n generalizing s with
  | zero => exact h
  | succ n ih => exact ih (wf_hdmaBlock h)

theorem mem_timaInc (s : State) : (timaInc s).mem = s.mem := by unfold timaInc; split <;> rfl

theorem mem_resetDivider (s : State) : (resetDivider s).mem = s.mem := by
  unfold resetDivider; simp only; split
  · exact mem_timaInc _
  · rfl

theorem mem_writeTac (v : Byte) (s : State) : (writeTac v s).mem = s.mem := by
  unfold writeTac; simp only; split
  · exact mem_timaInc _
  · rfl

theorem mem_writeSc (v : Byte) (s : State) : (writeSc v s).mem = s.mem := by
  unfold writeSc; simp only; split
  · split <;> rfl
  · rfl

/-- The I/O registers whose write changes memory: DMA, HDMA5, BCPD, OCPD (R227). -/
def IoReg.writesMemory : IoReg → Bool
  | .dma | .hdma5 | .bcpd | .ocpd => true
  | _ => false

/-- Any other I/O write leaves memory as it is. -/
theorem mem_ioWrite {s : State} {a : Word} (v : Byte) (h : (ioReg s.params.mode a).writesMemory = false) :
    (ioWrite s a v).mem = s.mem := by
  unfold ioWrite
  split
  all_goals first
    | rfl
    | exact mem_writeSc v s
    | exact mem_resetDivider s
    | exact mem_writeTac v s
    | (split <;> rfl)
    | (next hr => rw [hr] at h; exact absurd h (by decide))

theorem wf_ioWrite {s : State} (h : s.mem.wf = true) (a : Word) (v : Byte) : (ioWrite s a v).mem.wf = true := by
  by_cases hr : (ioReg s.params.mode a).writesMemory = false
  · rw [mem_ioWrite v hr]; exact h
  · unfold ioWrite
    split
    all_goals first
      | exact wf_writeDma h v
      | exact h
      | (unfold writeHdma5; simp only; split
         · exact h
         · split
           · exact h
           · exact wf_hdmaBlocks (s := { s with hdma.len := v.extractLsb' 0 7 }) h _)
      | (unfold writeBcpd; simp only; split
         · exact h
         · exact Memory.wf_write _ _ h)
      | (unfold writeOcpd; simp only; split
         · exact h
         · exact Memory.wf_write _ _ h)
      | (next hr' => rw [hr'] at hr; exact absurd rfl hr)

/-- A write through the dispatcher keeps the canonical form. -/
theorem wf_memWrite {s : State} (h : s.mem.wf = true) (a : Word) (v : Byte) : (memWrite s a v).mem.wf = true := by
  unfold memWrite
  split
  all_goals first
    | exact h
    | exact Memory.wf_write _ _ h
    | exact wf_ioWrite h a v

end Sys2Proof.Machine
end

