-- ==== Sys2Proof/Laws/Safety.lean ====
section
/-! SUPPORT. The invariant of Safety.lean under each shared operation: the units' updates, writes through the
dispatcher, pushes, and changes of the processor. -/

namespace Sys2Proof.Machine

/-! ## Fields the invariant does not read -/

theorem Inv.irq {s : State} (h : Inv s) (x : Irq) : Inv { s with irq := x } :=
  ⟨h.memory, h.cart, h.mapper, h.ppu, h.hdma, h.monochrome, h.serial, h.wait, h.haltBug, h.video, h.carry⟩

theorem Inv.timer {s : State} (h : Inv s) (x : Timer) : Inv { s with timer := x } :=
  ⟨h.memory, h.cart, h.mapper, h.ppu, h.hdma, h.monochrome, h.serial, h.wait, h.haltBug, h.video, h.carry⟩

theorem Inv.joypad {s : State} (h : Inv s) (x : Joypad) : Inv { s with joypad := x } :=
  ⟨h.memory, h.cart, h.mapper, h.ppu, h.hdma, h.monochrome, h.serial, h.wait, h.haltBug, h.video, h.carry⟩

theorem Inv.acct {s : State} (h : Inv s) (x : Account) : Inv { s with acct := x } :=
  ⟨h.memory, h.cart, h.mapper, h.ppu, h.hdma, h.monochrome, h.serial, h.wait, h.haltBug, h.video, h.carry⟩

theorem Inv.audio {s : State} (h : Inv s) (x : List AudioEvent) : Inv { s with audio := x } :=
  ⟨h.memory, h.cart, h.mapper, h.ppu, h.hdma, h.monochrome, h.serial, h.wait, h.haltBug, h.video, h.carry⟩

theorem Inv.dma {s : State} (h : Inv s) (x : Byte) : Inv { s with dma := x } :=
  ⟨h.memory, h.cart, h.mapper, h.ppu, h.hdma, h.monochrome, h.serial, h.wait, h.haltBug, h.video, h.carry⟩

theorem Inv.bootMapped {s : State} (h : Inv s) (x : Bool) : Inv { s with bootMapped := x } :=
  ⟨h.memory, h.cart, h.mapper, h.ppu, h.hdma, h.monochrome, h.serial, h.wait, h.haltBug, h.video, h.carry⟩

/-! ## Fields the invariant reads -/

theorem Inv.mem {s : State} (h : Inv s) {x : Memory} (hx : x.wf = true) : Inv { s with mem := x } :=
  ⟨hx, h.cart, h.mapper, h.ppu, h.hdma, h.monochrome, h.serial, h.wait, h.haltBug, h.video, h.carry⟩

theorem Inv.setMapper {s : State} (h : Inv s) {x : Mapper} (hx : MapperLegal x) : Inv { s with mapper := x } :=
  ⟨h.memory, h.cart, hx, h.ppu, h.hdma, h.monochrome, h.serial, h.wait, h.haltBug, h.video, h.carry⟩

theorem Inv.setPpu {s : State} (h : Inv s) {x : Ppu} (hx : PpuLegal x) : Inv { s with ppu := x } :=
  ⟨h.memory, h.cart, h.mapper, hx, h.hdma, h.monochrome, h.serial, h.wait, h.haltBug, h.video, h.carry⟩

theorem Inv.setSerial {s : State} (h : Inv s) {x : Serial}
    (hx : x.bits ≤ 8 ∧ (x.bits ≠ 0 → x.start = true ∧ x.internal = true))
    (hf : s.params.mode = .monochrome → x.fast = false) : Inv { s with serial := x } :=
  ⟨h.memory, h.cart, h.mapper, h.ppu, h.hdma,
    fun m => ⟨(h.monochrome m).1, (h.monochrome m).2.1, (h.monochrome m).2.2.1, hf m⟩, hx, h.wait, h.haltBug,
    h.video, h.carry⟩

theorem Inv.setColor {s : State} (h : Inv s) (x : ColorRegs) (hm : s.params.mode ≠ .monochrome) :
    Inv { s with color := x } :=
  ⟨h.memory, h.cart, h.mapper, h.ppu, h.hdma, fun m => absurd m hm, h.serial, h.wait, h.haltBug, h.video, h.carry⟩

theorem Inv.setHdma {s : State} (h : Inv s) {x : Hdma}
    (hx : x.src.extractLsb' 0 4 = 0 ∧ x.dst.extractLsb' 0 4 = 0) (hm : s.params.mode ≠ .monochrome) :
    Inv { s with hdma := x } :=
  ⟨h.memory, h.cart, h.mapper, h.ppu, hx, fun m => absurd m hm, h.serial, h.wait, h.haltBug, h.video, h.carry⟩

theorem Inv.setCpu {s : State} (h : Inv s) {x : Cpu} (hw : waitCount x ≤ 1)
    (hb : x.haltBugPending = true → s.params.haltBug = true)
    (hm : s.params.mode = .monochrome → x.doubleSpeed = false) : Inv { s with cpu := x } :=
  ⟨h.memory, h.cart, h.mapper, h.ppu, h.hdma,
    fun m => ⟨hm m, (h.monochrome m).2.1, (h.monochrome m).2.2.1, (h.monochrome m).2.2.2⟩, h.serial, hw, hb,
    h.video, h.carry⟩

/-! ## Units -/

theorem Inv.request {s : State} (h : Inv s) (k : Source) : Inv (request k s) := h.irq _

theorem Inv.timaInc {s : State} (h : Inv s) : Inv (timaInc s) := by
  unfold Machine.timaInc; split
  · exact (h.timer _).request _
  · exact h.timer _

theorem Inv.timerTick {s : State} (h : Inv s) : Inv (timerTick s) := by
  unfold Machine.timerTick; simp only; split
  · exact Inv.timaInc (h.timer _)
  · exact h.timer _

theorem Inv.timerAdvance {s : State} (h : Inv s) (c : Nat) : Inv (timerAdvance c s) := by
  unfold Machine.timerAdvance
  induction c generalizing s with
  | zero => exact h
  | succ c ih => exact ih h.timerTick

theorem Inv.resetDivider {s : State} (h : Inv s) : Inv (resetDivider s) := by
  unfold Machine.resetDivider; simp only; split
  · exact Inv.timaInc (h.timer _)
  · exact h.timer _

theorem Inv.writeTac {s : State} (h : Inv s) (v : Byte) : Inv (writeTac v s) := by
  unfold Machine.writeTac; simp only; split
  · exact Inv.timaInc (h.timer _)
  · exact h.timer _

theorem Inv.writeSc {s : State} (h : Inv s) (v : Byte) : Inv (writeSc v s) := by
  have hf : s.params.mode = .monochrome → s.serial.fast = false := fun m => (h.monochrome m).2.2.2
  have hs := h.serial
  unfold Machine.writeSc; simp only
  split
  · next hstart =>
    simp only [Bool.and_eq_true] at hstart
    split
    · refine h.setSerial ⟨by simp, fun _ => by simpa using hstart⟩ fun m => ?_
      simp [m, hf m]
    · refine h.setSerial ⟨hs.1, fun _ => by simpa using hstart⟩ fun m => ?_
      simp [m, hf m]
  · refine h.setSerial ⟨by simp, fun hb => absurd rfl hb⟩ fun m => ?_
    simp [m, hf m]

theorem Inv.serialShift {s : State} (h : Inv s) : Inv (serialShift s) := by
  have hf : s.params.mode = .monochrome → s.serial.fast = false := fun m => (h.monochrome m).2.2.2
  have hs := h.serial
  unfold Machine.serialShift; simp only
  split
  · next hz =>
    have hz' : s.serial.bits - 1 = 0 := hz
    refine Inv.request (Inv.setSerial (x := { s.serial with
      clk := 0, sb := _, bits := s.serial.bits - 1, start := false, count := s.serial.count + 1 }) h
      ⟨by show s.serial.bits - 1 ≤ 8; omega, fun hb => absurd hz' hb⟩ hf) _
  · exact h.setSerial ⟨by show s.serial.bits - 1 ≤ 8; omega, fun hb => hs.2 fun h0 => hb (by simp [h0])⟩ hf

theorem Inv.serialAdvance {s : State} (h : Inv s) (c : Nat) : Inv (serialAdvance c s) := by
  have hf : s.params.mode = .monochrome → s.serial.fast = false := fun m => (h.monochrome m).2.2.2
  have loop : ∀ (n : Nat) {t : State}, Inv t → Inv (serialLoop n t) := by
    intro n
    induction n with
    | zero => intro t ht; exact ht
    | succ n ih =>
      intro t ht
      simp only [serialLoop]
      split
      · exact ih ht.serialShift
      · exact ht
  unfold Machine.serialAdvance; simp only
  split
  · exact h
  · exact loop _ (h.setSerial h.serial hf)

theorem MapperLegal.advance {m : Mapper} (h : MapperLegal m) (d : Nat) : MapperLegal (m.advance d) := by
  cases m with
  | noMapper => exact h
  | variantA r => exact h
  | variantB r =>
    refine ⟨h.1, ?_⟩
    simp only [rtcAdvance]
    split
    · exact h.2
    · exact Nat.mod_lt _ (by decide)

theorem MapperLegal.control {m : Mapper} (h : MapperLegal m) (a : Word) (v : Byte) :
    MapperLegal (m.control a v) := by
  cases m with
  | noMapper => exact h
  | variantA r =>
    simp only [Mapper.control, MapperLegal, VariantA.control] at *
    split
    · exact h
    · split
      · simp only; split
        · decide
        · assumption
      · split <;> exact h
  | variantB r =>
    simp only [Mapper.control, MapperLegal, VariantB.control] at *
    split
    · exact h
    · split
      · refine ⟨?_, h.2⟩
        simp only; split
        · decide
        · assumption
      · split
        · exact h
        · refine ⟨h.1, ?_⟩
          simp only; split
          · exact h.2
          · exact h.2

theorem MapperLegal.rtcWrite {m : Mapper} (h : MapperLegal m) (sel v : Byte) : MapperLegal (m.rtcWrite sel v) := by
  cases m with
  | noMapper => exact h
  | variantA r => exact h
  | variantB r =>
    refine ⟨h.1, ?_⟩
    simp only [Machine.rtcWrite]
    split
    · decide
    · exact h.2

theorem PpuLegal.writeLcdc {p : Ppu} (h : PpuLegal p) (v : Byte) : PpuLegal (p.writeLcdc v) := by
  have key : ∀ q : Ppu, q.lcdOn = p.lcdOn → q.line = p.line → q.dot = p.dot → q.mode = p.mode → PpuLegal q := by
    intro q h1 h2 h3 h4
    unfold PpuLegal at *
    rw [h1, h2, h3, h4]; exact h
  unfold Ppu.writeLcdc
  cases hp : p.lcdOn <;> cases hv : ({ p with lcdc := v } : Ppu).lcdOn
  · simpa [hp, hv] using key { p with lcdc := v } (hv.trans hp.symm) rfl rfl rfl
  · have hv' : v.getLsbD 7 = true := hv
    simp [PpuLegal, Ppu.lcdOn, modeAt, -BitVec.getLsbD_eq_getElem, hv']
  · have hv' : v.getLsbD 7 = false := hv
    simp [PpuLegal, Ppu.lcdOn, -BitVec.getLsbD_eq_getElem, hv']
  · simpa [hp, hv] using key { p with lcdc := v } (hv.trans hp.symm) rfl rfl rfl

theorem low4_add16 {n : Nat} (h4 : 4 ≤ n) (x : BitVec n) (h : x.extractLsb' 0 4 = 0) :
    (x + BitVec.ofNat n 16).extractLsb' 0 4 = 0 := by
  apply BitVec.eq_of_toNat_eq
  have h' := congrArg BitVec.toNat h
  obtain ⟨k, rfl⟩ := Nat.exists_eq_add_of_le h4
  have hp : 2 ^ (4 + k) = 16 * 2 ^ k := by rw [Nat.pow_add]
  simp only [BitVec.extractLsb'_toNat, Nat.shiftRight_zero, BitVec.toNat_add, BitVec.toNat_ofNat,
    Nat.reducePow] at h' ⊢
  rw [hp, Nat.add_mod_mod, Nat.mod_mul_right_mod, Nat.add_mod_right]
  exact h'

/-- The invariant after one HDMA block: a block runs in color mode only, or leaves monochrome state alone. -/
theorem Inv.hdmaBlock {s : State} (h : Inv s) (hm : s.params.mode ≠ .monochrome) : Inv (hdmaBlock s) := by
  rw [hdmaBlock_eq]
  refine Inv.setHdma (s := { s with mem := (Machine.hdmaBlock s).mem }) (h.mem (wf_hdmaBlock h.memory)) ?_ hm
  obtain ⟨h1, h2⟩ := h.hdma
  exact ⟨low4_add16 (by decide) _ h1, low4_add16 (by decide) _ h2⟩

theorem Inv.hdmaBlocks {s : State} (h : Inv s) (hm : s.params.mode ≠ .monochrome) (n : Nat) :
    Inv (repeatN Machine.hdmaBlock n s) := by
  induction n generalizing s with
  | zero => exact h
  | succ n ih => exact ih (h.hdmaBlock hm) (by rw [(sameCore_hdmaBlock s).params]; exact hm)

theorem Inv.writeHdma5 {s : State} (h : Inv s) (hm : s.params.mode ≠ .monochrome) (v : Byte) :
    Inv (writeHdma5 v s) := by
  unfold Machine.writeHdma5; simp only
  split
  · exact h.setHdma h.hdma hm
  · split
    · exact h.setHdma h.hdma hm
    · have h1 : Inv { s with hdma.len := v.extractLsb' 0 7 } := h.setHdma h.hdma hm
      have h2 := h1.hdmaBlocks hm ((v.extractLsb' 0 7).toNat + 1)
      have hm2 := (sameCore_hdmaBlocks ((v.extractLsb' 0 7).toNat + 1)
        { s with hdma.len := v.extractLsb' 0 7 }).params
      have h3 : Inv { repeatN Machine.hdmaBlock ((v.extractLsb' 0 7).toNat + 1)
          { s with hdma.len := v.extractLsb' 0 7 } with hdma.active := false } :=
        h2.setHdma h2.hdma (by rw [hm2]; exact hm)
      exact h3.acct _

theorem Inv.hblankHdma {s : State} (h : Inv s) : Inv (hblankHdma s) := by
  unfold Machine.hblankHdma
  split
  · next ha =>
    have hm : s.params.mode ≠ .monochrome := fun m => by
      rw [(h.monochrome m).2.2.1] at ha; exact absurd ha (by decide)
    simp only
    split
    · exact Inv.setHdma (h.hdmaBlock hm) (h.hdmaBlock hm).hdma (by rw [(sameCore_hdmaBlock s).params]; exact hm)
    · exact h.hdmaBlock hm
  · exact h

/-- A color-only register is written in color mode only. -/
theorem color_of_ioReg {mode : HwMode} {a : Word} {r : IoReg} (h : ioReg mode a = r) (hr : r.colorOnly = true) :
    mode ≠ .monochrome := by
  rintro rfl
  unfold ioReg at h
  simp only at h
  split at h
  · subst h; exact absurd hr (by decide)
  · next hn => subst h; exact hn hr

theorem hdma_src_high (v : Byte) (w : Word) (h : w.extractLsb' 0 4 = 0) :
    (mkWord v (loByte w)).extractLsb' 0 4 = 0 := by
  rw [← h]
  apply BitVec.eq_of_getLsbD_eq; intro i hi
  simp only [mkWord, loByte, BitVec.getLsbD_extractLsb', BitVec.getLsbD_append]
  simp [hi, show i < 8 by omega]

theorem low_clear (v : Byte) {i : Nat} (h : i < 4) : (v &&& 0xF0).getLsbD i = false := by
  have : (0xF0 : Byte).getLsbD i = false := by interval_cases i <;> rfl
  rw [BitVec.getLsbD_and, this, Bool.and_false]

theorem hdma_src_low (v : Byte) (w : Byte) : (mkWord w (v &&& 0xF0)).extractLsb' 0 4 = 0 := by
  apply BitVec.eq_of_getLsbD_eq; intro i hi
  simp only [mkWord, BitVec.getLsbD_extractLsb', BitVec.getLsbD_append, Nat.zero_add, hi, decide_true,
    show i < 8 by omega, low_clear v hi]
  simp

theorem hdma_dst_high (v : Byte) (w : BitVec 13) (h : w.extractLsb' 0 4 = 0) :
    (v.extractLsb' 0 5 ++ w.extractLsb' 0 8 : BitVec 13).extractLsb' 0 4 = 0 := by
  rw [← h]
  apply BitVec.eq_of_getLsbD_eq; intro i hi
  simp only [BitVec.getLsbD_extractLsb', BitVec.getLsbD_append]
  simp [hi, show i < 8 by omega]

theorem hdma_dst_low (v : Byte) (w : BitVec 5) : (w ++ (v &&& 0xF0) : BitVec 13).extractLsb' 0 4 = 0 := by
  apply BitVec.eq_of_getLsbD_eq; intro i hi
  have h8 : i < 8 := by omega
  simp only [BitVec.getLsbD_extractLsb', BitVec.getLsbD_append (x := w) (y := v &&& 0xF0), Nat.zero_add, hi,
    decide_true, h8, low_clear v hi]
  simp

theorem Inv.writeDma {s : State} (h : Inv s) (v : Byte) : Inv (writeDma v s) := by
  rw [writeDma_eq]
  exact Inv.mem (h.dma v) (wf_writeDma h.memory v)

theorem Inv.ioWrite {s : State} (h : Inv s) (a : Word) (v : Byte) : Inv (ioWrite s a v) := by
  unfold Machine.ioWrite
  split
  · exact h.joypad _
  · exact h.setSerial h.serial fun m => (h.monochrome m).2.2.2
  · exact h.writeSc v
  · exact h.resetDivider
  · exact h.timer _
  · exact h.timer _
  · exact h.writeTac v
  · exact h.irq _
  · exact h.audio _
  · exact h.setPpu (h.ppu.writeLcdc v)
  · exact h.setPpu h.ppu
  · exact h.setPpu h.ppu
  · exact h.setPpu h.ppu
  · exact h
  · exact h.setPpu h.ppu
  · exact h.writeDma v
  · exact h.setPpu h.ppu
  · exact h.setPpu h.ppu
  · exact h.setPpu h.ppu
  · exact h.setPpu h.ppu
  · exact h.setPpu h.ppu
  · split
    · exact h
    · exact h.bootMapped _
  · next hr => exact h.setColor _ (color_of_ioReg hr rfl)
  · next hr => exact h.setColor _ (color_of_ioReg hr rfl)
  · next hr => exact h.setHdma ⟨hdma_src_high _ _ h.hdma.1, h.hdma.2⟩ (color_of_ioReg hr rfl)
  · next hr => exact h.setHdma ⟨hdma_src_low _ _, h.hdma.2⟩ (color_of_ioReg hr rfl)
  · next hr => exact h.setHdma ⟨h.hdma.1, hdma_dst_high _ _ h.hdma.2⟩ (color_of_ioReg hr rfl)
  · next hr => exact h.setHdma ⟨h.hdma.1, hdma_dst_low _ _⟩ (color_of_ioReg hr rfl)
  · next hr => exact h.writeHdma5 (color_of_ioReg hr rfl) v
  · next hr => exact h.setColor _ (color_of_ioReg hr rfl)
  · next hr =>
    unfold writeBcpd; simp only
    split
    · exact h.setColor _ (color_of_ioReg hr rfl)
    · exact Inv.setColor (h.mem (Memory.wf_write _ _ h.memory)) _ (color_of_ioReg hr rfl)
  · next hr => exact h.setColor _ (color_of_ioReg hr rfl)
  · next hr =>
    unfold writeOcpd; simp only
    split
    · exact h.setColor _ (color_of_ioReg hr rfl)
    · exact Inv.setColor (h.mem (Memory.wf_write _ _ h.memory)) _ (color_of_ioReg hr rfl)
  · next hr => exact h.setColor _ (color_of_ioReg hr rfl)
  · exact h

theorem Inv.memWrite {s : State} (h : Inv s) (a : Word) (v : Byte) : Inv (memWrite s a v) := by
  unfold Machine.memWrite
  split
  · exact h
  · exact h.setMapper (h.mapper.control a v)
  · exact h.mem (Memory.wf_write _ _ h.memory)
  · exact h
  · exact h.setMapper (h.mapper.rtcWrite _ v)
  · exact h.ioWrite a v
  · exact h.irq _

/-- A change of the processor that keeps its hidden flags. -/
theorem Inv.setRegs {s : State} (h : Inv s) {x : Cpu} (hl : x.locked = s.cpu.locked) (ht : x.stopped = s.cpu.stopped)
    (hh : x.halted = s.cpu.halted) (hb : x.haltBugPending = s.cpu.haltBugPending)
    (hd : x.doubleSpeed = s.cpu.doubleSpeed) : Inv { s with cpu := x } :=
  h.setCpu (by have := h.wait; simp only [waitCount] at *; rw [hl, ht, hh, hb]; exact this)
    (by rw [hb]; exact h.haltBug) (by rw [hd]; exact fun m => (h.monochrome m).1)

theorem Inv.push16 {s : State} (h : Inv s) (v : Word) : Inv (push16 v s) := by
  unfold Machine.push16; simp only
  refine Inv.memWrite (Inv.setRegs (Inv.memWrite (h.setRegs ?_ ?_ ?_ ?_ ?_) _ _) ?_ ?_ ?_ ?_ ?_) _ _ <;>
    simp

/-! ## The operations of Machine/Ops.lean -/

theorem Inv.setR8 {s : State} (h : Inv s) (r : Reg8) (v : Byte) : Inv (setR8 r v s) :=
  h.setRegs (by simp) (by simp) (by simp) (by simp) (by simp)
theorem Inv.setA {s : State} (h : Inv s) (v : Byte) : Inv (setA v s) :=
  h.setRegs (by simp) (by simp) (by simp) (by simp) (by simp)
theorem Inv.setFlags {s : State} (h : Inv s) (v : Flags) : Inv (setFlags v s) :=
  h.setRegs (by simp) (by simp) (by simp) (by simp) (by simp)
theorem Inv.setPc {s : State} (h : Inv s) (v : Word) : Inv (setPc v s) :=
  h.setRegs (by simp) (by simp) (by simp) (by simp) (by simp)
theorem Inv.setSp {s : State} (h : Inv s) (v : Word) : Inv (setSp v s) :=
  h.setRegs (by simp) (by simp) (by simp) (by simp) (by simp)
theorem Inv.dropTop {s : State} (h : Inv s) : Inv (dropTop s) :=
  h.setRegs (by simp) (by simp) (by simp) (by simp) (by simp)
theorem Inv.setPair {s : State} (h : Inv s) (r : Pair) (v : Word) : Inv (setPair r v s) :=
  h.setRegs (by simp) (by simp) (by simp) (by simp) (by simp)
theorem Inv.setStackPair {s : State} (h : Inv s) (r : StackPair) (v : Word) : Inv (setStackPair r v s) :=
  h.setRegs (by simp) (by simp) (by simp) (by simp) (by simp)
theorem Inv.setHl {s : State} (h : Inv s) (v : Word) : Inv (setHl v s) :=
  h.setRegs rfl rfl rfl rfl rfl
theorem Inv.writeHl {s : State} (h : Inv s) (v : Byte) : Inv (writeHl v s) := h.memWrite _ _

end Sys2Proof.Machine
end

