-- ==== Sys2Proof/Laws/Units.lean ====
section
/-! SUPPORT. What the advance of the units can do: it leaves the processor alone, only sets bits of IF, and keeps the
invariant. -/

namespace Sys2Proof.Machine

/-! ## The processor, the parameters, the carry, IE -/

/-- What no unit changes, and IF, whose bits a unit only sets (R234). -/
structure UnitStep (s t : State) : Prop where
  params : t.params = s.params
  cpu : t.cpu = s.cpu
  ie : t.irq.ie = s.irq.ie
  iflag : s.irq.iflag &&& t.irq.iflag = s.irq.iflag
  acct : t.acct = s.acct
  joypad : t.joypad = s.joypad
  cart : t.cart = s.cart
  carry : t.carry = s.carry
  frameCalled : t.frameCalled = s.frameCalled

theorem UnitStep.refl (s : State) : UnitStep s s := ⟨rfl, rfl, rfl, BitVec.and_self, rfl, rfl, rfl, rfl, rfl⟩

theorem UnitStep.trans {s t u : State} (h : UnitStep s t) (k : UnitStep t u) : UnitStep s u :=
  ⟨k.1.trans h.1, k.2.trans h.2, k.3.trans h.3,
    by rw [← h.4, BitVec.and_assoc, k.4], k.5.trans h.5, k.6.trans h.6, k.7.trans h.7, k.8.trans h.8, k.9.trans h.9⟩

theorem unitStep_repeatN {f : State → State} (h : ∀ s, UnitStep s (f s)) (n : Nat) (s : State) :
    UnitStep s (repeatN f n s) := by
  induction n generalizing s with
  | zero => exact UnitStep.refl s
  | succ n ih => exact (h s).trans (ih _)

theorem unitStep_request (k : Source) (s : State) : UnitStep s (request k s) := by
  refine ⟨rfl, rfl, rfl, ?_, rfl, rfl, rfl, rfl, rfl⟩
  apply BitVec.eq_of_getLsbD_eq; intro i _
  simp only [request, BitVec.getLsbD_and, BitVec.getLsbD_or]
  cases s.irq.iflag.getLsbD i <;> simp

theorem UnitStep.request {s t : State} (h : UnitStep s t) (k : Source) : UnitStep s (request k t) :=
  h.trans (unitStep_request k t)

theorem unitStep_timaInc (s : State) : UnitStep s (timaInc s) := by
  unfold timaInc
  split
  · exact UnitStep.trans (t := { s with timer.tima := s.timer.tma })
      ⟨rfl, rfl, rfl, BitVec.and_self, rfl, rfl, rfl, rfl, rfl⟩ (unitStep_request _ _)
  · exact ⟨rfl, rfl, rfl, BitVec.and_self, rfl, rfl, rfl, rfl, rfl⟩

theorem unitStep_timerTick (s : State) : UnitStep s (timerTick s) := by
  unfold timerTick
  simp only
  split
  · exact UnitStep.trans (t := { s with timer.div16 := s.timer.div16 + 1 })
      ⟨rfl, rfl, rfl, BitVec.and_self, rfl, rfl, rfl, rfl, rfl⟩ (unitStep_timaInc _)
  · exact ⟨rfl, rfl, rfl, BitVec.and_self, rfl, rfl, rfl, rfl, rfl⟩

theorem unitStep_serialShift (s : State) : UnitStep s (serialShift s) := by
  unfold serialShift
  simp only
  split
  · refine UnitStep.request ?_ _
    exact ⟨rfl, rfl, rfl, BitVec.and_self, rfl, rfl, rfl, rfl, rfl⟩
  · exact ⟨rfl, rfl, rfl, BitVec.and_self, rfl, rfl, rfl, rfl, rfl⟩

theorem unitStep_serialLoop (n : Nat) (s : State) : UnitStep s (serialLoop n s) := by
  induction n generalizing s with
  | zero => exact UnitStep.refl s
  | succ n ih =>
    simp only [serialLoop]
    split
    · exact (unitStep_serialShift s).trans (ih _)
    · exact UnitStep.refl s

theorem unitStep_serialAdvance (c : Nat) (s : State) : UnitStep s (serialAdvance c s) := by
  unfold serialAdvance
  simp only
  split
  · exact UnitStep.refl s
  · exact UnitStep.trans (t := { s with serial.clk := s.serial.clk + c })
      ⟨rfl, rfl, rfl, BitVec.and_self, rfl, rfl, rfl, rfl, rfl⟩ (unitStep_serialLoop _ _)

theorem unitStep_hblankHdma (s : State) : UnitStep s (hblankHdma s) := by
  unfold hblankHdma
  split
  · simp only
    split
    · rw [hdmaBlock_eq]; exact ⟨rfl, rfl, rfl, BitVec.and_self, rfl, rfl, rfl, rfl, rfl⟩
    · rw [hdmaBlock_eq]; exact ⟨rfl, rfl, rfl, BitVec.and_self, rfl, rfl, rfl, rfl, rfl⟩
  · exact UnitStep.refl s

theorem latchWindow_eq (line : Nat) (s : State) :
    latchWindow line s = { s with ppu.winSeen := (latchWindow line s).ppu.winSeen } := by
  unfold latchWindow; split <;> rfl

/-- A rendered line changes the window's counters and the list of rows only. -/
theorem renderLine_eq (line : Nat) (s : State) :
    renderLine line s = { s with
      ppu := { s.ppu with
        winSeen := (latchWindow line s).ppu.winSeen, winLine := (renderLine line s).ppu.winLine }
      video := { line := line, row := renderRow (latchWindow line s) line } :: s.video } := by
  unfold renderLine
  simp only
  rw [latchWindow_eq]

theorem unitStep_statTrigger (k : Nat) (s : State) : UnitStep s (statTrigger k s) := by
  unfold statTrigger
  split
  · exact unitStep_request _ _
  · exact UnitStep.refl s

theorem unitStep_enterHblank (s : State) : UnitStep s (enterHblank s) := by
  unfold enterHblank
  simp only
  refine UnitStep.trans (UnitStep.trans (t := renderLine s.ppu.line { s with ppu.mode := .hblank }) ?_
    (unitStep_hblankHdma _)) (unitStep_statTrigger _ _)
  rw [renderLine_eq]
  exact ⟨rfl, rfl, rfl, BitVec.and_self, rfl, rfl, rfl, rfl, rfl⟩

theorem unitStep_enterLine (s : State) : UnitStep s (enterLine s) := by
  unfold enterLine
  split
  · refine UnitStep.trans (UnitStep.trans (t := { s with ppu.mode := .vblank }) ?_ (unitStep_request _ _))
      (unitStep_statTrigger _ _)
    exact ⟨rfl, rfl, rfl, BitVec.and_self, rfl, rfl, rfl, rfl, rfl⟩
  · split
    · simp only
      refine UnitStep.trans ?_ (unitStep_statTrigger _ _)
      split <;> exact ⟨rfl, rfl, rfl, BitVec.and_self, rfl, rfl, rfl, rfl, rfl⟩
    · exact UnitStep.refl s

theorem unitStep_nextLine (s : State) : UnitStep s (nextLine s) := by
  unfold nextLine
  refine UnitStep.trans (UnitStep.trans
    (t := { s with ppu.dot := 0, ppu.line := (s.ppu.line + 1) % 154 })
    ⟨rfl, rfl, rfl, BitVec.and_self, rfl, rfl, rfl, rfl, rfl⟩ (unitStep_enterLine _)) ?_
  unfold lycTrigger
  split
  · exact unitStep_statTrigger _ _
  · exact UnitStep.refl _

theorem unitStep_ppuDot (s : State) : UnitStep s (ppuDot s) := by
  have h0 : UnitStep s { s with ppu.dot := s.ppu.dot + 1 } := ⟨rfl, rfl, rfl, BitVec.and_self, rfl, rfl, rfl, rfl, rfl⟩
  unfold ppuDot
  simp only
  split
  · split
    · exact h0.trans ⟨rfl, rfl, rfl, BitVec.and_self, rfl, rfl, rfl, rfl, rfl⟩
    · exact h0
  · split
    · split
      · exact h0.trans (unitStep_enterHblank _)
      · exact h0
    · split
      · exact h0.trans (unitStep_nextLine _)
      · exact h0

theorem unitStep_ppuAdvance (d : Nat) (s : State) : UnitStep s (ppuAdvance d s) := by
  unfold ppuAdvance
  split
  · exact unitStep_repeatN unitStep_ppuDot d s
  · exact UnitStep.refl s

/-- The state of the units after a step, before the account is written. -/
theorem unitStep_advance (c d : Nat) (s : State) :
    UnitStep s (audioAdvance d (clockAdvance d (serialAdvance c (timerAdvance c (ppuAdvance d s))))) :=
  ((((unitStep_ppuAdvance d s).trans (unitStep_repeatN unitStep_timerTick c _)).trans
    (unitStep_serialAdvance c _)).trans ⟨rfl, rfl, rfl, BitVec.and_self, rfl, rfl, rfl, rfl, rfl⟩).trans
    ⟨rfl, rfl, rfl, BitVec.and_self, rfl, rfl, rfl, rfl, rfl⟩

@[simp] theorem advanceUnits_cpu (ds : Bool) (s : State) : (advanceUnits ds s).cpu = s.cpu :=
  (unitStep_advance _ _ s).cpu

@[simp] theorem advanceUnits_params (ds : Bool) (s : State) : (advanceUnits ds s).params = s.params :=
  (unitStep_advance _ _ s).params

@[simp] theorem advanceUnits_carry (ds : Bool) (s : State) : (advanceUnits ds s).carry = s.carry :=
  (unitStep_advance _ _ s).carry

@[simp] theorem advanceUnits_frameCalled (ds : Bool) (s : State) :
    (advanceUnits ds s).frameCalled = s.frameCalled := (unitStep_advance _ _ s).frameCalled

@[simp] theorem advanceUnits_ie (ds : Bool) (s : State) : (advanceUnits ds s).irq.ie = s.irq.ie :=
  (unitStep_advance _ _ s).ie

/-- A bit of IF that is set before the advance is set after it. -/
theorem advanceUnits_iflag (ds : Bool) (s : State) :
    s.irq.iflag &&& (advanceUnits ds s).irq.iflag = s.irq.iflag := (unitStep_advance _ _ s).iflag

/-- The account after a step: the cycles of the processor are kept, and the normal-speed cycles follow from them. -/
@[simp] theorem advanceUnits_acct (ds : Bool) (s : State) :
    (advanceUnits ds s).acct = { s.acct with normalCycles := normalCycles ds (processorCycles s) } := by
  have h := (unitStep_advance (processorCycles s) (normalCycles ds (processorCycles s)) s).acct
  simp only [advanceUnits, h]

/-! ## The invariant -/

theorem renderRow_length (s : State) (line : Nat) : (renderRow s line).length = 160 := by simp [renderRow]

/-- Every output colour has bit 15 zero (R1052). -/
theorem Shades.color_bit15 (t : Shades) (shade : Nat) : (t.color shade).getLsbD 15 = false := by
  simp [Shades.color]

theorem paletteColor_bit15 (s : State) (base p i : Nat) : (paletteColor s base p i).getLsbD 15 = false := by
  simp [paletteColor]

theorem bgColor_bit15 (s : State) (bg : TilePixel) : (bgColor s bg).getLsbD 15 = false := by
  unfold bgColor
  split
  · split <;> exact Shades.color_bit15 _ _
  · exact paletteColor_bit15 _ _ _ _

theorem spriteColor_bit15 (s : State) (q : SpritePixel) : (spriteColor s q).getLsbD 15 = false := by
  unfold spriteColor
  split
  · exact Shades.color_bit15 _ _
  · exact paletteColor_bit15 _ _ _ _

theorem renderRow_bit15 (s : State) (line : Nat) : ∀ c ∈ renderRow s line, c.getLsbD 15 = false := by
  intro c hc
  obtain ⟨x, -, rfl⟩ := List.mem_map.mp hc
  simp only [pixelColor]
  split
  · exact bgColor_bit15 _ _
  · split
    · exact bgColor_bit15 _ _
    · exact spriteColor_bit15 _ _

theorem Inv.addRow {s : State} (h : Inv s) {p : Ppu} (hp : PpuLegal p) {line : Nat} {row : List Word}
    (hl : line < 144) (hr : row.length = 160)
    (hc : ∀ c ∈ row, c.getLsbD 15 = false) :
    Inv { s with ppu := p, video := { line := line, row := row } :: s.video } := by
  refine ⟨h.memory, h.cart, h.mapper, hp, h.hdma, h.monochrome, h.serial, h.wait, h.haltBug, ?_, h.carry⟩
  intro r hm
  rcases List.mem_cons.mp hm with rfl | hm
  · exact ⟨hl, hr, hc⟩
  · exact h.video r hm

theorem Inv.statTrigger {s : State} (h : Inv s) (k : Nat) : Inv (statTrigger k s) := by
  unfold Machine.statTrigger; split
  · exact h.request _
  · exact h

theorem statTrigger_ppu (k : Nat) (s : State) : (statTrigger k s).ppu = s.ppu := by
  unfold statTrigger; split <;> rfl

/-- The invariant and the position after entry into mode 0. -/
theorem Inv.enterHblank {s : State} (h : Inv { s with ppu.mode := .hblank }) (hl : s.ppu.line < 144) :
    Inv (enterHblank s) := by
  unfold Machine.enterHblank
  simp only
  refine Inv.statTrigger (Inv.hblankHdma ?_) _
  rw [renderLine_eq]
  refine Inv.addRow h ?_ hl (renderRow_length _ _) (renderRow_bit15 _ _)
  exact h.ppu

theorem Inv.enterLine {s : State} (h : ∀ m, m = modeAt s.ppu.line 0 → Inv { s with ppu.mode := m })
    (hk : s.ppu.line < 144 ∨ s.ppu.line = 144 ∨ s.ppu.mode = .vblank) :
    Inv (enterLine s) := by
  unfold Machine.enterLine
  split
  · next h1 => exact Inv.statTrigger (Inv.request (h .vblank (by simp [modeAt, h1])) _) _
  · split
    · next h1 h2 =>
      have h3 : Inv { s with ppu.mode := .oamScan } := h .oamScan (by simp [modeAt, Nat.not_le.mpr h2])
      simp only
      split
      · refine Inv.statTrigger (h3.setPpu ?_) _
        exact h3.ppu
      · exact Inv.statTrigger h3 _
    · next h1 h2 =>
      have hm : s.ppu.mode = .vblank := (hk.resolve_left h2).resolve_left h1
      have : Inv { s with ppu.mode := s.ppu.mode } := h s.ppu.mode (by
        rw [hm]; simp [modeAt, Nat.le_of_not_lt h2])
      exact this

/-- One dot keeps the invariant while the LCD is on. -/
theorem Inv.ppuDot {s : State} (h : Inv s) (hon : s.ppu.lcdOn = true) : Inv (ppuDot s) := by
  have hp := h.ppu
  simp only [PpuLegal, hon, if_true] at hp
  obtain ⟨hline, hdot, hmode⟩ := hp
  have legal : ∀ {p : Ppu}, p.lcdc = s.ppu.lcdc → p.line < 154 → p.dot < 456 → p.mode = modeAt p.line p.dot →
      Inv { s with ppu := p } := by
    intro p h1 h2 h3 h4
    refine h.setPpu ?_
    have : p.lcdOn = true := by unfold Ppu.lcdOn at *; rw [h1]; exact hon
    simp only [PpuLegal, this, if_true]
    exact ⟨h2, h3, h4⟩
  unfold Machine.ppuDot
  simp only
  split
  · next hd =>
    split
    · next hl => exact legal rfl hline (by simp only; omega) (by simp [modeAt, Nat.not_le.mpr hl, hd])
    · next hl =>
      exact legal rfl hline (by simp only; omega) (by simpa [modeAt, Nat.le_of_not_lt hl] using hmode)
  · next hd80 =>
    split
    · next hd =>
      split
      · next hl =>
        refine Inv.enterHblank ?_ hl
        exact legal rfl hline (by simp only; omega) (by simp [modeAt, Nat.not_le.mpr hl, hd])
      · next hl =>
        exact legal rfl hline (by simp only; omega) (by simpa [modeAt, Nat.le_of_not_lt hl] using hmode)
    · next hd252 =>
      split
      · next hd =>
        unfold nextLine
        have hmod : (s.ppu.line + 1) % 154 < 154 := Nat.mod_lt _ (by decide)
        have h1 : Inv (Machine.enterLine { s with ppu.dot := 0, ppu.line := (s.ppu.line + 1) % 154 }) := by
          refine Inv.enterLine (fun m hm => legal rfl hmod (by simp) hm) ?_
          by_cases h144 : 144 ≤ s.ppu.line
          · by_cases h153 : s.ppu.line = 153
            · left; simp [h153]
            · right; right; simpa [modeAt, h144] using hmode
          · by_cases h143 : s.ppu.line = 143
            · right; left; simp [h143]
            · left; show (s.ppu.line + 1) % 154 < 144; omega
        unfold lycTrigger
        split
        · exact h1.statTrigger _
        · exact h1
      · next hd456 =>
        refine legal rfl hline (by simp only; omega) ?_
        simp only [hmode, modeAt]
        split
        · rfl
        · by_cases h80 : s.ppu.dot < 80
          · rw [if_pos h80, if_pos (by omega)]
          · by_cases h252 : s.ppu.dot < 252
            · rw [if_neg h80, if_pos h252, if_neg (by omega), if_pos (by omega)]
            · rw [if_neg h80, if_neg h252, if_neg (by omega), if_neg (by omega)]

theorem ppuDot_lcdc (s : State) : (ppuDot s).ppu.lcdc = s.ppu.lcdc := by
  have hb : ∀ t : State, (enterHblank t).ppu.lcdc = t.ppu.lcdc := by
    intro t
    unfold enterHblank
    simp only [statTrigger_ppu]
    have : ∀ u : State, (hblankHdma u).ppu = u.ppu := by
      intro u; unfold hblankHdma; split
      · simp only; split <;> rw [hdmaBlock_eq]
      · rfl
    rw [this, renderLine_eq]
  have hl : ∀ t : State, (enterLine t).ppu.lcdc = t.ppu.lcdc := by
    intro t
    unfold enterLine
    split
    · rw [statTrigger_ppu]; rfl
    · split
      · simp only [statTrigger_ppu]; split <;> rfl
      · rfl
  unfold ppuDot
  simp only
  split
  · split <;> rfl
  · split
    · split
      · rw [hb]
      · rfl
    · split
      · unfold nextLine lycTrigger
        split
        · rw [statTrigger_ppu, hl]
        · rw [hl]
      · rfl

theorem Inv.ppuAdvance {s : State} (h : Inv s) (d : Nat) : Inv (ppuAdvance d s) := by
  unfold Machine.ppuAdvance
  split
  · next hon =>
    induction d generalizing s with
    | zero => exact h
    | succ d ih =>
      refine ih (h.ppuDot hon) ?_
      have := ppuDot_lcdc s
      unfold Ppu.lcdOn at *
      rw [this]; exact hon
  · exact h

/-- The advance of the units keeps the invariant. -/
theorem Inv.advanceUnits {s : State} (h : Inv s) (ds : Bool) : Inv (advanceUnits ds s) := by
  unfold Machine.advanceUnits
  simp only
  refine Inv.acct (Inv.audio ?_ _) _
  have h1 := ((h.ppuAdvance (normalCycles ds (processorCycles s))).timerAdvance (processorCycles s)).serialAdvance
    (processorCycles s)
  exact h1.setMapper (h1.mapper.advance _)

end Sys2Proof.Machine
end

