-- ==== Sys2Proof/Laws/HostActions.lean ====
section
/-! SUPPORT. The invariant at construction and under the host's actions, and what a replacement leaves. -/

namespace Sys2Proof.Machine

/-! ## Construction -/

theorem cartOf_legal {romSize ramSize : Byte} (h : ramSize.toNat ≤ 0x05) : CartLegal (cartOf romSize ramSize) := by
  have hne : ∀ n : Nat, ramSize.toNat = n → n < 256 → ramSize = BitVec.ofNat 8 n := by
    intro n hn hlt; apply BitVec.eq_of_toNat_eq; simp [hn, Nat.mod_eq_of_lt hlt]
  have hc : ramSize = 0 ∨ ramSize = 1 ∨ ramSize = 2 ∨ ramSize = 3 ∨ ramSize = 4 ∨ ramSize = 5 := by
    rcases Nat.lt_or_ge ramSize.toNat 3 with h3 | h3
    · have : ramSize.toNat = 0 ∨ ramSize.toNat = 1 ∨ ramSize.toNat = 2 := by omega
      rcases this with h0 | h0 | h0 <;> simp [hne _ h0 (by decide)]
    · have : ramSize.toNat = 3 ∨ ramSize.toNat = 4 ∨ ramSize.toNat = 5 := by omega
      rcases this with h0 | h0 | h0 <;> simp [hne _ h0 (by decide)]
  rcases hc with rfl | rfl | rfl | rfl | rfl | rfl <;> simp [CartLegal, cartOf, ramBanksOf]

theorem selectVariant_legal {cartType : Byte} {m : Mapper} (h : selectVariant cartType = some m) : MapperLegal m := by
  unfold selectVariant at h
  split at h
  · cases h; trivial
  · split at h
    · cases h; unfold MapperLegal; decide
    · split at h
      · cases h; unfold MapperLegal; decide
      · cases h

/-- What the builder's mapper and sizes are when it accepts an image (R303, R304). -/
theorem makeMapper_legal {image : List Byte} {m : Mapper} {c : Cart} (h : makeMapper image = .ok (m, c)) :
    MapperLegal m ∧ CartLegal c := by
  unfold makeMapper at h
  split at h
  · cases h
  · split at h
    · cases h
    · next m' hm =>
      simp only at h
      split at h
      · cases h
      · split at h
        · cases h
        · next hram =>
          split at h
          · cases h
          · split at h
            · cases h; exact ⟨selectVariant_legal hm, cartOf_legal (Nat.le_of_not_lt hram)⟩
            · cases h

theorem placeCart_wf (n : Nat) (image ram : List Byte) {m : Memory} (h : m.wf = true) :
    (placeCart n image ram m).wf = true := Memory.wf_writeList _ _ (Memory.wf_writeList _ _ h)

/-- The boot-skip machine meets the invariant (R1101). -/
theorem Inv.bootSkip (params : Params) (divInit : Word) {cart : Cart} {mapper : Mapper} {mem : Memory}
    (hc : CartLegal cart) (hm : MapperLegal mapper) (hw : mem.wf = true) :
    Inv (State.bootSkip params divInit cart mapper mem) := by
  refine ⟨hw, hc, hm, ?_, ?_, ?_, ?_, ?_, ?_, ?_, ?_⟩
  · show PpuLegal Ppu.bootSkip; unfold PpuLegal modeAt; decide
  · show Hdma.bootSkip.src.extractLsb' 0 4 = 0 ∧ Hdma.bootSkip.dst.extractLsb' 0 4 = 0; decide
  · intro (h : params.mode = .monochrome)
    simp [MonochromeIdle, State.bootSkip, h, Cpu.bootSkip, Serial.bootSkip]
  · show (Serial.bootSkip params.mode).bits ≤ 8 ∧ ((Serial.bootSkip params.mode).bits ≠ 0 →
      (Serial.bootSkip params.mode).start = true ∧ (Serial.bootSkip params.mode).internal = true)
    cases params.mode <;> decide
  · show waitCount (Cpu.bootSkip params.mode) ≤ 1
    cases params.mode <;> decide
  · show (Cpu.bootSkip params.mode).haltBugPending = true → _
    cases params.mode <;> simp [Cpu.bootSkip]
  · simp [State.bootSkip]
  · show 0 < Config.frameCycles; decide

/-- The low four bits of HDMA_SRC and HDMA_DST are 0 on the boot-ROM path, whatever is drawn (R153, R155). -/
theorem Hdma.bootRom_low (mode : HwMode) (x : Hdma) :
    (Hdma.bootRom mode x).src.extractLsb' 0 4 = 0 ∧ (Hdma.bootRom mode x).dst.extractLsb' 0 4 = 0 := by
  cases mode
  · simp only [Hdma.bootRom]; decide
  · constructor <;>
      (apply BitVec.eq_of_getLsbD_eq; intro i hi
       simp only [Hdma.bootRom, BitVec.getLsbD_extractLsb', BitVec.getLsbD_and]
       have : i = 0 ∨ i = 1 ∨ i = 2 ∨ i = 3 := by omega
       rcases this with rfl | rfl | rfl | rfl <;> simp)

/-- A legal position is drawn as it is. -/
theorem Ppu.bootRom_of_legal {x : Ppu} (h : PpuLegal x) : Ppu.bootRom x = x := by
  have hr : x.line < 154 ∧ x.dot < 456 := by
    unfold PpuLegal at h
    split at h
    · exact ⟨h.1, h.2.1⟩
    · omega
  simp [Ppu.bootRom, Nat.mod_eq_of_lt hr.1, Nat.mod_eq_of_lt hr.2]

theorem Serial.bootRom_legal (mode : HwMode) {x : Serial}
    (h : x.bits ≤ 8 ∧ (x.bits ≠ 0 → x.start = true ∧ x.internal = true)) :
    (Serial.bootRom mode x).bits ≤ 8 ∧ ((Serial.bootRom mode x).bits ≠ 0 →
      (Serial.bootRom mode x).start = true ∧ (Serial.bootRom mode x).internal = true) := by
  simpa [Serial.bootRom, Nat.mod_eq_of_lt (show x.bits < 9 by omega)] using h

/-- The boot-ROM machine meets the invariant if its draws do (R1104, R1105). -/
theorem Inv.bootRom (params : Params) {cart : Cart} {mapper : Mapper} (image : List Byte) (o : BuildOptions)
    {draws : State} (hc : CartLegal cart) (hm : MapperLegal mapper) (hd : Inv draws) :
    Inv (State.bootRom params cart mapper image o draws) := by
  refine ⟨Memory.wf_writeList _ _ (placeCart_wf _ _ _ hd.memory), hc, hm, ?_, Hdma.bootRom_low _ _, ?_,
    Serial.bootRom_legal _ hd.serial, ?_, ?_, ?_, ?_⟩
  · show PpuLegal (Ppu.bootRom draws.ppu)
    rw [Ppu.bootRom_of_legal hd.ppu]; exact hd.ppu
  · intro (h : params.mode = .monochrome)
    simp [MonochromeIdle, State.bootRom, h, ColorRegs.bootRom, Hdma.bootRom, Serial.bootRom]
  · simp [State.bootRom, waitCount]
  · simp [State.bootRom]
  · simp [State.bootRom]
  · show 0 < Config.frameCycles; decide

/-! ## Host actions -/

theorem Inv.joypadSet {s : State} (h : Inv s) (new : Byte) : Inv (joypadSet new s) := by
  unfold Machine.joypadSet
  simp only
  split
  · refine Inv.request (Inv.setCpu (x := { s.cpu with stopped := false })
      (h.joypad { s.joypad with pressed := new }) ?_ h.haltBug fun m => (h.monochrome m).1) _
    have := h.wait
    simp only [waitCount, Bool.toNat_false] at *
    omega
  · exact h.joypad _

theorem Inv.writeSaveRam {s : State} (h : Inv s) (bytes : List Byte) :
    Inv { s with mem := s.mem.writeList cramBase bytes } := h.mem (Memory.wf_writeList _ _ h.memory)

theorem MapperLegal.setClock {m : Mapper} (h : MapperLegal m) {rtc : Rtc} (hr : rtc.sub < Config.rtcTickCycles) :
    MapperLegal (m.setClock rtc) := by
  cases m with
  | noMapper => exact h
  | variantA r => exact h
  | variantB r => exact ⟨h.1, hr⟩

/-- The host reads back the cartridge RAM it replaced (R335). -/
theorem saveRam_writeList (s : State) {bytes : List Byte} (h : bytes.length = s.mapper.ramBytes s.cart) :
    saveRam { s with mem := s.mem.writeList cramBase bytes } = bytes := by
  unfold saveRam
  apply List.ext_getElem
  · simp [h]
  · intro i h1 h2
    simp [Memory.read_writeList, h2, List.getD_eq_getElem?_getD]

/-- A replaced clock is the one the host reads, where there is a clock (R335). -/
theorem clockState_setClock {s : State} (rtc : Rtc) (h : (clockState s).isSome = true) :
    clockState { s with mapper := s.mapper.setClock rtc } = some rtc := by
  revert h
  unfold clockState
  rcases s.mapper with _ | _ | r <;> simp [Mapper.setClock]

theorem hostAct_of_may {x : HostAction} {s : State} (h : hostMay x s = true) : hostAct x s = hostEffect x s := by
  simp [hostAct, h]

theorem hostAct_of_not {x : HostAction} {s : State} (h : hostMay x s = false) :
    hostAct x s = .refused .hostAction := by simp [hostAct, h]

end Sys2Proof.Machine
end

