-- ==== Sys2Proof/Laws/PerInstr.lean ====
section
/-! SUPPORT. Facts about every instruction as syntax, one lemma per constructor. The family WordForm: the bytes of a
well-formed instruction begin with an opcode that fixes their number (R400, R402) and that selects exactly the
instruction's own row of R430; in a CB form the byte after 0xCB selects exactly its row of R431. -/

set_option Elab.async false

namespace Sys2Proof.Laws.WordForm

/-- An opcode of the one-byte space, followed by n bytes, stands for the row k of R430. -/
def FirstByte (op : Byte) (n k : Nat) : Prop := n + 1 = opcodeLength op ∧ selectedRows oneByteRows op = [k]

/-- The byte after 0xCB stands for the row k of R431. -/
def SecondByte (op2 : Byte) (k : Nat) : Prop := opcodeLength 0xCB = 2 ∧ selectedRows cbRows op2 = [k]

/-- The bytes of an instruction have the form its row gives them. -/
def BytesOfRow (i : Instr) : List Byte → Prop
  | [0xCB, op2] => SecondByte op2 (i.rowIndex - 94)
  | op :: rest => FirstByte op rest.length i.rowIndex
  | [] => False

/-- The bytes of a well-formed instruction have the form its row gives them. -/
def Statement (i : Instr) : Prop := i.WellFormed → BytesOfRow i (encode i)

/-- Every opcode stands for the row of the instruction the decoder reads from it. -/
theorem firstByte_decodeFirst :
    ∀ op : Byte, FirstByte op (opcodeLength op - 1) (decodeFirst op 0 0).rowIndex := by
  unfold FirstByte; decide +kernel

/-- The same of the byte after 0xCB. -/
theorem secondByte_decodeCb : ∀ op2 : Byte, SecondByte op2 ((decodeCb op2).rowIndex - 94) := by
  unfold SecondByte; decide +kernel

theorem nop : Statement (.nop) := by
  intro _; (show FirstByte _ 0 0; exact firstByte_decodeFirst _)

theorem ldDdNn (dd : Pair) (nn : Word) : Statement (.ldDdNn dd nn) := by
  intro _; cases dd <;> (show FirstByte _ 2 1; exact firstByte_decodeFirst _)

theorem ldAtBcA : Statement (.ldAtBcA) := by
  intro _; (show FirstByte _ 0 2; exact firstByte_decodeFirst _)

theorem ldAtDeA : Statement (.ldAtDeA) := by
  intro _; (show FirstByte _ 0 3; exact firstByte_decodeFirst _)

theorem ldAtHlIncA : Statement (.ldAtHlIncA) := by
  intro _; (show FirstByte _ 0 4; exact firstByte_decodeFirst _)

theorem ldAtHlDecA : Statement (.ldAtHlDecA) := by
  intro _; (show FirstByte _ 0 5; exact firstByte_decodeFirst _)

theorem incDd (dd : Pair) : Statement (.incDd dd) := by
  intro _; cases dd <;> (show FirstByte _ 0 6; exact firstByte_decodeFirst _)

theorem incR (r : Reg8) : Statement (.incR r) := by
  intro _; cases r <;> (show FirstByte _ 0 7; exact firstByte_decodeFirst _)

theorem incAtHl : Statement (.incAtHl) := by
  intro _; (show FirstByte _ 0 8; exact firstByte_decodeFirst _)

theorem decR (r : Reg8) : Statement (.decR r) := by
  intro _; cases r <;> (show FirstByte _ 0 9; exact firstByte_decodeFirst _)

theorem decAtHl : Statement (.decAtHl) := by
  intro _; (show FirstByte _ 0 10; exact firstByte_decodeFirst _)

theorem ldRN (r : Reg8) (n : Byte) : Statement (.ldRN r n) := by
  intro _; cases r <;> (show FirstByte _ 1 11; exact firstByte_decodeFirst _)

theorem ldAtHlN (n : Byte) : Statement (.ldAtHlN n) := by
  intro _; (show FirstByte _ 1 12; exact firstByte_decodeFirst _)

theorem rlca : Statement (.rlca) := by
  intro _; (show FirstByte _ 0 13; exact firstByte_decodeFirst _)

theorem rrca : Statement (.rrca) := by
  intro _; (show FirstByte _ 0 14; exact firstByte_decodeFirst _)

theorem rla : Statement (.rla) := by
  intro _; (show FirstByte _ 0 15; exact firstByte_decodeFirst _)

theorem rra : Statement (.rra) := by
  intro _; (show FirstByte _ 0 16; exact firstByte_decodeFirst _)

theorem daa : Statement (.daa) := by
  intro _; (show FirstByte _ 0 17; exact firstByte_decodeFirst _)

theorem cpl : Statement (.cpl) := by
  intro _; (show FirstByte _ 0 18; exact firstByte_decodeFirst _)

theorem scf : Statement (.scf) := by
  intro _; (show FirstByte _ 0 19; exact firstByte_decodeFirst _)

theorem ccf : Statement (.ccf) := by
  intro _; (show FirstByte _ 0 20; exact firstByte_decodeFirst _)

theorem ldAtNnSp (nn : Word) : Statement (.ldAtNnSp nn) := by
  intro _; (show FirstByte _ 2 21; exact firstByte_decodeFirst _)

theorem addHlDd (dd : Pair) : Statement (.addHlDd dd) := by
  intro _; cases dd <;> (show FirstByte _ 0 22; exact firstByte_decodeFirst _)

theorem ldAAtBc : Statement (.ldAAtBc) := by
  intro _; (show FirstByte _ 0 23; exact firstByte_decodeFirst _)

theorem ldAAtDe : Statement (.ldAAtDe) := by
  intro _; (show FirstByte _ 0 24; exact firstByte_decodeFirst _)

theorem ldAAtHlInc : Statement (.ldAAtHlInc) := by
  intro _; (show FirstByte _ 0 25; exact firstByte_decodeFirst _)

theorem ldAAtHlDec : Statement (.ldAAtHlDec) := by
  intro _; (show FirstByte _ 0 26; exact firstByte_decodeFirst _)

theorem decDd (dd : Pair) : Statement (.decDd dd) := by
  intro _; cases dd <;> (show FirstByte _ 0 27; exact firstByte_decodeFirst _)

theorem stop (ignored : Byte) : Statement (.stop ignored) := by
  intro _; (show FirstByte _ 1 28; exact firstByte_decodeFirst _)

theorem jrE (e : Byte) : Statement (.jrE e) := by
  intro _; (show FirstByte _ 1 29; exact firstByte_decodeFirst _)

theorem jrCcE (cc : Cond) (e : Byte) : Statement (.jrCcE cc e) := by
  intro _; cases cc <;> (show FirstByte _ 1 30; exact firstByte_decodeFirst _)

theorem ldRR (r s : Reg8) : Statement (.ldRR r s) := by
  intro _; cases r <;> cases s <;> (show FirstByte _ 0 31; exact firstByte_decodeFirst _)

theorem ldRAtHl (r : Reg8) : Statement (.ldRAtHl r) := by
  intro _; cases r <;> (show FirstByte _ 0 32; exact firstByte_decodeFirst _)

theorem ldAtHlR (s : Reg8) : Statement (.ldAtHlR s) := by
  intro _; cases s <;> (show FirstByte _ 0 33; exact firstByte_decodeFirst _)

theorem halt : Statement (.halt) := by
  intro _; (show FirstByte _ 0 34; exact firstByte_decodeFirst _)

theorem addAR (s : Reg8) : Statement (.addAR s) := by
  intro _; cases s <;> (show FirstByte _ 0 35; exact firstByte_decodeFirst _)

theorem addAAtHl : Statement (.addAAtHl) := by
  intro _; (show FirstByte _ 0 36; exact firstByte_decodeFirst _)

theorem addAN (n : Byte) : Statement (.addAN n) := by
  intro _; (show FirstByte _ 1 37; exact firstByte_decodeFirst _)

theorem adcAR (s : Reg8) : Statement (.adcAR s) := by
  intro _; cases s <;> (show FirstByte _ 0 38; exact firstByte_decodeFirst _)

theorem adcAAtHl : Statement (.adcAAtHl) := by
  intro _; (show FirstByte _ 0 39; exact firstByte_decodeFirst _)

theorem adcAN (n : Byte) : Statement (.adcAN n) := by
  intro _; (show FirstByte _ 1 40; exact firstByte_decodeFirst _)

theorem subR (s : Reg8) : Statement (.subR s) := by
  intro _; cases s <;> (show FirstByte _ 0 41; exact firstByte_decodeFirst _)

theorem subAtHl : Statement (.subAtHl) := by
  intro _; (show FirstByte _ 0 42; exact firstByte_decodeFirst _)

theorem subN (n : Byte) : Statement (.subN n) := by
  intro _; (show FirstByte _ 1 43; exact firstByte_decodeFirst _)

theorem sbcAR (s : Reg8) : Statement (.sbcAR s) := by
  intro _; cases s <;> (show FirstByte _ 0 44; exact firstByte_decodeFirst _)

theorem sbcAAtHl : Statement (.sbcAAtHl) := by
  intro _; (show FirstByte _ 0 45; exact firstByte_decodeFirst _)

theorem sbcAN (n : Byte) : Statement (.sbcAN n) := by
  intro _; (show FirstByte _ 1 46; exact firstByte_decodeFirst _)

theorem andR (s : Reg8) : Statement (.andR s) := by
  intro _; cases s <;> (show FirstByte _ 0 47; exact firstByte_decodeFirst _)

theorem andAtHl : Statement (.andAtHl) := by
  intro _; (show FirstByte _ 0 48; exact firstByte_decodeFirst _)

theorem andN (n : Byte) : Statement (.andN n) := by
  intro _; (show FirstByte _ 1 49; exact firstByte_decodeFirst _)

theorem xorR (s : Reg8) : Statement (.xorR s) := by
  intro _; cases s <;> (show FirstByte _ 0 50; exact firstByte_decodeFirst _)

theorem xorAtHl : Statement (.xorAtHl) := by
  intro _; (show FirstByte _ 0 51; exact firstByte_decodeFirst _)

theorem xorN (n : Byte) : Statement (.xorN n) := by
  intro _; (show FirstByte _ 1 52; exact firstByte_decodeFirst _)

theorem orR (s : Reg8) : Statement (.orR s) := by
  intro _; cases s <;> (show FirstByte _ 0 53; exact firstByte_decodeFirst _)

theorem orAtHl : Statement (.orAtHl) := by
  intro _; (show FirstByte _ 0 54; exact firstByte_decodeFirst _)

theorem orN (n : Byte) : Statement (.orN n) := by
  intro _; (show FirstByte _ 1 55; exact firstByte_decodeFirst _)

theorem cpR (s : Reg8) : Statement (.cpR s) := by
  intro _; cases s <;> (show FirstByte _ 0 56; exact firstByte_decodeFirst _)

theorem cpAtHl : Statement (.cpAtHl) := by
  intro _; (show FirstByte _ 0 57; exact firstByte_decodeFirst _)

theorem cpN (n : Byte) : Statement (.cpN n) := by
  intro _; (show FirstByte _ 1 58; exact firstByte_decodeFirst _)

theorem retCc (cc : Cond) : Statement (.retCc cc) := by
  intro _; cases cc <;> (show FirstByte _ 0 59; exact firstByte_decodeFirst _)

theorem popQq (qq : StackPair) : Statement (.popQq qq) := by
  intro h
  cases qq <;> first | (show FirstByte _ 0 60; exact firstByte_decodeFirst _) | cases h

theorem popAf : Statement (.popAf) := by
  intro _; (show FirstByte _ 0 61; exact firstByte_decodeFirst _)

theorem jpCcNn (cc : Cond) (nn : Word) : Statement (.jpCcNn cc nn) := by
  intro _; cases cc <;> (show FirstByte _ 2 62; exact firstByte_decodeFirst _)

theorem jpNn (nn : Word) : Statement (.jpNn nn) := by
  intro _; (show FirstByte _ 2 63; exact firstByte_decodeFirst _)

theorem callCcNn (cc : Cond) (nn : Word) : Statement (.callCcNn cc nn) := by
  intro _; cases cc <;> (show FirstByte _ 2 64; exact firstByte_decodeFirst _)

theorem pushQq (qq : StackPair) : Statement (.pushQq qq) := by
  intro _; cases qq <;> (show FirstByte _ 0 65; exact firstByte_decodeFirst _)

theorem rstT (t : BitVec 3) : Statement (.rstT t) := by
  intro _
  have h : ∀ t : BitVec 3, t = 0 ∨ t = 1 ∨ t = 2 ∨ t = 3 ∨ t = 4 ∨ t = 5 ∨ t = 6 ∨ t = 7 := by decide
  rcases h t with rfl | rfl | rfl | rfl | rfl | rfl | rfl | rfl <;>
    (show FirstByte _ 0 66; exact firstByte_decodeFirst _)

theorem ret : Statement (.ret) := by
  intro _; (show FirstByte _ 0 67; exact firstByte_decodeFirst _)

theorem reti : Statement (.reti) := by
  intro _; (show FirstByte _ 0 68; exact firstByte_decodeFirst _)

theorem callNn (nn : Word) : Statement (.callNn nn) := by
  intro _; (show FirstByte _ 2 69; exact firstByte_decodeFirst _)

theorem ldhAtNA (n : Byte) : Statement (.ldhAtNA n) := by
  intro _; (show FirstByte _ 1 70; exact firstByte_decodeFirst _)

theorem ldhAtCA : Statement (.ldhAtCA) := by
  intro _; (show FirstByte _ 0 71; exact firstByte_decodeFirst _)

theorem addSpE (e : Byte) : Statement (.addSpE e) := by
  intro _; (show FirstByte _ 1 72; exact firstByte_decodeFirst _)

theorem jpHl : Statement (.jpHl) := by
  intro _; (show FirstByte _ 0 73; exact firstByte_decodeFirst _)

theorem ldAtNnA (nn : Word) : Statement (.ldAtNnA nn) := by
  intro _; (show FirstByte _ 2 74; exact firstByte_decodeFirst _)

theorem ldhAAtN (n : Byte) : Statement (.ldhAAtN n) := by
  intro _; (show FirstByte _ 1 75; exact firstByte_decodeFirst _)

theorem ldhAAtC : Statement (.ldhAAtC) := by
  intro _; (show FirstByte _ 0 76; exact firstByte_decodeFirst _)

theorem di : Statement (.di) := by
  intro _; (show FirstByte _ 0 77; exact firstByte_decodeFirst _)

theorem ldHlSpE (e : Byte) : Statement (.ldHlSpE e) := by
  intro _; (show FirstByte _ 1 78; exact firstByte_decodeFirst _)

theorem ldSpHl : Statement (.ldSpHl) := by
  intro _; (show FirstByte _ 0 79; exact firstByte_decodeFirst _)

theorem ldAAtNn (nn : Word) : Statement (.ldAAtNn nn) := by
  intro _; (show FirstByte _ 2 80; exact firstByte_decodeFirst _)

theorem ei : Statement (.ei) := by
  intro _; (show FirstByte _ 0 81; exact firstByte_decodeFirst _)

theorem prefixCb (op2 : Byte) : Statement (.prefixCb op2) := by
  intro h; cases h

theorem illegalD3 : Statement (.illegalD3) := by
  intro _; (show FirstByte _ 0 83; exact firstByte_decodeFirst _)

theorem illegalDB : Statement (.illegalDB) := by
  intro _; (show FirstByte _ 0 84; exact firstByte_decodeFirst _)

theorem illegalDD : Statement (.illegalDD) := by
  intro _; (show FirstByte _ 0 85; exact firstByte_decodeFirst _)

theorem illegalE3 : Statement (.illegalE3) := by
  intro _; (show FirstByte _ 0 86; exact firstByte_decodeFirst _)

theorem illegalE4 : Statement (.illegalE4) := by
  intro _; (show FirstByte _ 0 87; exact firstByte_decodeFirst _)

theorem illegalEB : Statement (.illegalEB) := by
  intro _; (show FirstByte _ 0 88; exact firstByte_decodeFirst _)

theorem illegalEC : Statement (.illegalEC) := by
  intro _; (show FirstByte _ 0 89; exact firstByte_decodeFirst _)

theorem illegalED : Statement (.illegalED) := by
  intro _; (show FirstByte _ 0 90; exact firstByte_decodeFirst _)

theorem illegalF4 : Statement (.illegalF4) := by
  intro _; (show FirstByte _ 0 91; exact firstByte_decodeFirst _)

theorem illegalFC : Statement (.illegalFC) := by
  intro _; (show FirstByte _ 0 92; exact firstByte_decodeFirst _)

theorem illegalFD : Statement (.illegalFD) := by
  intro _; (show FirstByte _ 0 93; exact firstByte_decodeFirst _)

theorem rlcR (s : Reg8) : Statement (.rlcR s) := by
  intro _; cases s <;> (show SecondByte _ 0; exact secondByte_decodeCb _)

theorem rlcAtHl : Statement (.rlcAtHl) := by
  intro _; (show SecondByte _ 1; exact secondByte_decodeCb _)

theorem rrcR (s : Reg8) : Statement (.rrcR s) := by
  intro _; cases s <;> (show SecondByte _ 2; exact secondByte_decodeCb _)

theorem rrcAtHl : Statement (.rrcAtHl) := by
  intro _; (show SecondByte _ 3; exact secondByte_decodeCb _)

theorem rlR (s : Reg8) : Statement (.rlR s) := by
  intro _; cases s <;> (show SecondByte _ 4; exact secondByte_decodeCb _)

theorem rlAtHl : Statement (.rlAtHl) := by
  intro _; (show SecondByte _ 5; exact secondByte_decodeCb _)

theorem rrR (s : Reg8) : Statement (.rrR s) := by
  intro _; cases s <;> (show SecondByte _ 6; exact secondByte_decodeCb _)

theorem rrAtHl : Statement (.rrAtHl) := by
  intro _; (show SecondByte _ 7; exact secondByte_decodeCb _)

theorem slaR (s : Reg8) : Statement (.slaR s) := by
  intro _; cases s <;> (show SecondByte _ 8; exact secondByte_decodeCb _)

theorem slaAtHl : Statement (.slaAtHl) := by
  intro _; (show SecondByte _ 9; exact secondByte_decodeCb _)

theorem sraR (s : Reg8) : Statement (.sraR s) := by
  intro _; cases s <;> (show SecondByte _ 10; exact secondByte_decodeCb _)

theorem sraAtHl : Statement (.sraAtHl) := by
  intro _; (show SecondByte _ 11; exact secondByte_decodeCb _)

theorem swapR (s : Reg8) : Statement (.swapR s) := by
  intro _; cases s <;> (show SecondByte _ 12; exact secondByte_decodeCb _)

theorem swapAtHl : Statement (.swapAtHl) := by
  intro _; (show SecondByte _ 13; exact secondByte_decodeCb _)

theorem srlR (s : Reg8) : Statement (.srlR s) := by
  intro _; cases s <;> (show SecondByte _ 14; exact secondByte_decodeCb _)

theorem srlAtHl : Statement (.srlAtHl) := by
  intro _; (show SecondByte _ 15; exact secondByte_decodeCb _)

theorem bitBR (b : BitVec 3) (s : Reg8) : Statement (.bitBR b s) := by
  intro _
  cases s <;> (show SecondByte _ 16; unfold SecondByte; revert b; decide +kernel)

theorem bitBAtHl (b : BitVec 3) : Statement (.bitBAtHl b) := by
  intro _
  (show SecondByte _ 17; unfold SecondByte; revert b; decide +kernel)

theorem resBR (b : BitVec 3) (s : Reg8) : Statement (.resBR b s) := by
  intro _
  cases s <;> (show SecondByte _ 18; unfold SecondByte; revert b; decide +kernel)

theorem resBAtHl (b : BitVec 3) : Statement (.resBAtHl b) := by
  intro _
  (show SecondByte _ 19; unfold SecondByte; revert b; decide +kernel)

theorem setBR (b : BitVec 3) (s : Reg8) : Statement (.setBR b s) := by
  intro _
  cases s <;> (show SecondByte _ 20; unfold SecondByte; revert b; decide +kernel)

theorem setBAtHl (b : BitVec 3) : Statement (.setBAtHl b) := by
  intro _
  (show SecondByte _ 21; unfold SecondByte; revert b; decide +kernel)

end Sys2Proof.Laws.WordForm
end

