-- ==== Sys2Proof/Tests/Slice0.lean ====
section
/-! SUPPORT. The model's own tests: ill-formed terms, decoding of words written out from R430 and R431, one step of
every instruction with the results of 95_test_vectors.md or of the examples in the instructions' own rules, the units'
vectors, and a witness for the hypotheses of every statement. -/

set_option Elab.async false

open Sys2Proof Sys2Proof.Machine

namespace Sys2Proof.Tests

/-! ## Helpers -/

/-- The next state of an outcome. -/
def nextOf (r : Result) : Option State :=
  match r with
  | .next t => some t
  | _ => none

theorem exists_next {r : Result} (h : (nextOf r).isSome = true) : ∃ t, r = .next t := by
  cases r with
  | next t => exact ⟨t, rfl⟩
  | fault e => simp [nextOf] at h
  | refused e => simp [nextOf] at h

/-- The start state of 95_test_vectors.md with bytes stored, changed by f, and the code at 0x0100. -/
def start (code : List Byte) (cells : List (Word × Byte)) (f : State → State) : State :=
  let s := f (cells.foldl (fun s c => memWrite s c.1 c.2) State.reset)
  { s with mem := s.mem.writeList (romBase + 0x100) code }

/-- One step from there. -/
def ran (code : List Byte) (cells : List (Word × Byte)) (f : State → State) : Option State :=
  nextOf (step (start code cells f))

/-- What a vector lists of the processor. -/
structure Seen where
  a : Byte
  f : Byte
  bc : Word
  de : Word
  hl : Word
  sp : Word
  pc : Word
  cycles : Nat
  deriving DecidableEq, Repr

/-- One step leaves the processor as seen and the bytes listed in memory. -/
def shows (code : List Byte) (cells : List (Word × Byte)) (f : State → State) (after : List (Word × Byte)) (x : Seen) :
    Bool :=
  match ran code cells f with
  | none => false
  | some t =>
    let y : Seen := ⟨t.cpu.a, t.cpu.f.toByte, t.cpu.bc, t.cpu.de, t.cpu.hl, t.cpu.sp, t.cpu.pc, t.acct.cycles⟩
    decide (y = x) && after.all fun c => memRead t c.1 == c.2

/-! ## Ill-formed terms -/

theorem test_pop_qq_af_ill_formed : ¬ (Instr.popQq .af).WellFormed := by decide
theorem test_prefix_cb_ill_formed : ¬ (Instr.prefixCb 0x37).WellFormed := by decide
theorem test_decode_nothing : decode [] = .error .noOpcode := rfl
theorem test_decode_truncated : decode [0xC3, 0x00] = .error .truncated ∧ decode [0xCB] = .error .truncated := ⟨rfl, rfl⟩

/-! ## Decoding, one word for every row (immediates 0x5A and 0x1234) -/

theorem test_decode_first_rows :
    decode [0b00000000] = .ok (.nop, []) ∧
    decode [0b00100001, 0x34, 0x12] = .ok (.ldDdNn .hl 0x1234, []) ∧
    decode [0b00000010] = .ok (.ldAtBcA, []) ∧
    decode [0b00010010] = .ok (.ldAtDeA, []) ∧
    decode [0b00100010] = .ok (.ldAtHlIncA, []) ∧
    decode [0b00110010] = .ok (.ldAtHlDecA, []) ∧
    decode [0b00100011] = .ok (.incDd .hl, []) ∧
    decode [0b00101100] = .ok (.incR .l, []) ∧
    decode [0b00110100] = .ok (.incAtHl, []) ∧
    decode [0b00101101] = .ok (.decR .l, []) ∧
    decode [0b00110101] = .ok (.decAtHl, []) ∧
    decode [0b00101110, 0x5A] = .ok (.ldRN .l 0x5A, []) ∧
    decode [0b00110110, 0x5A] = .ok (.ldAtHlN 0x5A, []) ∧
    decode [0b00000111] = .ok (.rlca, []) :=
  ⟨rfl, rfl, rfl, rfl, rfl, rfl, rfl, rfl, rfl, rfl, rfl, rfl, rfl, rfl⟩

theorem test_decode_rows_with_x_00 :
    decode [0b00001111] = .ok (.rrca, []) ∧
    decode [0b00010111] = .ok (.rla, []) ∧
    decode [0b00011111] = .ok (.rra, []) ∧
    decode [0b00100111] = .ok (.daa, []) ∧
    decode [0b00101111] = .ok (.cpl, []) ∧
    decode [0b00110111] = .ok (.scf, []) ∧
    decode [0b00111111] = .ok (.ccf, []) ∧
    decode [0b00001000, 0x34, 0x12] = .ok (.ldAtNnSp 0x1234, []) ∧
    decode [0b00101001] = .ok (.addHlDd .hl, []) ∧
    decode [0b00001010] = .ok (.ldAAtBc, []) ∧
    decode [0b00011010] = .ok (.ldAAtDe, []) ∧
    decode [0b00101010] = .ok (.ldAAtHlInc, []) ∧
    decode [0b00111010] = .ok (.ldAAtHlDec, []) ∧
    decode [0b00101011] = .ok (.decDd .hl, []) :=
  ⟨rfl, rfl, rfl, rfl, rfl, rfl, rfl, rfl, rfl, rfl, rfl, rfl, rfl, rfl⟩

theorem test_decode_moves_and_sums :
    decode [0b00010000, 0x5A] = .ok (.stop 0x5A, []) ∧
    decode [0b00011000, 0x5A] = .ok (.jrE 0x5A, []) ∧
    decode [0b00111000, 0x5A] = .ok (.jrCcE .c 0x5A, []) ∧
    decode [0b01101011] = .ok (.ldRR .l .e, []) ∧
    decode [0b01101110] = .ok (.ldRAtHl .l, []) ∧
    decode [0b01110011] = .ok (.ldAtHlR .e, []) ∧
    decode [0b01110110] = .ok (.halt, []) ∧
    decode [0b10000011] = .ok (.addAR .e, []) ∧
    decode [0b10000110] = .ok (.addAAtHl, []) ∧
    decode [0b11000110, 0x5A] = .ok (.addAN 0x5A, []) ∧
    decode [0b10001011] = .ok (.adcAR .e, []) ∧
    decode [0b10001110] = .ok (.adcAAtHl, []) ∧
    decode [0b11001110, 0x5A] = .ok (.adcAN 0x5A, []) ∧
    decode [0b10010011] = .ok (.subR .e, []) ∧
    decode [0b10010110] = .ok (.subAtHl, []) ∧
    decode [0b11010110, 0x5A] = .ok (.subN 0x5A, []) ∧
    decode [0b10011011] = .ok (.sbcAR .e, []) ∧
    decode [0b10011110] = .ok (.sbcAAtHl, []) ∧
    decode [0b11011110, 0x5A] = .ok (.sbcAN 0x5A, []) :=
  ⟨rfl, rfl, rfl, rfl, rfl, rfl, rfl, rfl, rfl, rfl, rfl, rfl, rfl, rfl, rfl, rfl, rfl, rfl, rfl⟩

theorem test_decode_logic_and_compares :
    decode [0b10100011] = .ok (.andR .e, []) ∧
    decode [0b10100110] = .ok (.andAtHl, []) ∧
    decode [0b11100110, 0x5A] = .ok (.andN 0x5A, []) ∧
    decode [0b10101011] = .ok (.xorR .e, []) ∧
    decode [0b10101110] = .ok (.xorAtHl, []) ∧
    decode [0b11101110, 0x5A] = .ok (.xorN 0x5A, []) ∧
    decode [0b10110011] = .ok (.orR .e, []) ∧
    decode [0b10110110] = .ok (.orAtHl, []) ∧
    decode [0b11110110, 0x5A] = .ok (.orN 0x5A, []) ∧
    decode [0b10111011] = .ok (.cpR .e, []) ∧
    decode [0b10111110] = .ok (.cpAtHl, []) ∧
    decode [0b11111110, 0x5A] = .ok (.cpN 0x5A, []) :=
  ⟨rfl, rfl, rfl, rfl, rfl, rfl, rfl, rfl, rfl, rfl, rfl, rfl⟩

theorem test_decode_stack_and_control :
    decode [0b11011000] = .ok (.retCc .c, []) ∧
    decode [0b11010001] = .ok (.popQq .de, []) ∧
    decode [0b11110001] = .ok (.popAf, []) ∧
    decode [0b11011010, 0x34, 0x12] = .ok (.jpCcNn .c 0x1234, []) ∧
    decode [0b11000011, 0x34, 0x12] = .ok (.jpNn 0x1234, []) ∧
    decode [0b11011100, 0x34, 0x12] = .ok (.callCcNn .c 0x1234, []) ∧
    decode [0b11010101] = .ok (.pushQq .de, []) ∧
    decode [0b11110111] = .ok (.rstT 6, []) ∧
    decode [0b11001001] = .ok (.ret, []) ∧
    decode [0b11011001] = .ok (.reti, []) ∧
    decode [0b11001101, 0x34, 0x12] = .ok (.callNn 0x1234, []) ∧
    decode [0b11100000, 0x5A] = .ok (.ldhAtNA 0x5A, []) ∧
    decode [0b11100010] = .ok (.ldhAtCA, []) :=
  ⟨rfl, rfl, rfl, rfl, rfl, rfl, rfl, rfl, rfl, rfl, rfl, rfl, rfl⟩

theorem test_decode_high_page_and_system :
    decode [0b11101000, 0x5A] = .ok (.addSpE 0x5A, []) ∧
    decode [0b11101001] = .ok (.jpHl, []) ∧
    decode [0b11101010, 0x34, 0x12] = .ok (.ldAtNnA 0x1234, []) ∧
    decode [0b11110000, 0x5A] = .ok (.ldhAAtN 0x5A, []) ∧
    decode [0b11110010] = .ok (.ldhAAtC, []) ∧
    decode [0b11110011] = .ok (.di, []) ∧
    decode [0b11111000, 0x5A] = .ok (.ldHlSpE 0x5A, []) ∧
    decode [0b11111001] = .ok (.ldSpHl, []) ∧
    decode [0b11111010, 0x34, 0x12] = .ok (.ldAAtNn 0x1234, []) ∧
    decode [0b11111011] = .ok (.ei, []) ∧
    decodeFirst 0b11001011 0x5A 0x00 = .prefixCb 0x5A :=
  ⟨rfl, rfl, rfl, rfl, rfl, rfl, rfl, rfl, rfl, rfl, rfl⟩

theorem test_decode_unused_opcodes :
    decode [0b11010011] = .ok (.illegalD3, []) ∧
    decode [0b11011011] = .ok (.illegalDB, []) ∧
    decode [0b11011101] = .ok (.illegalDD, []) ∧
    decode [0b11100011] = .ok (.illegalE3, []) ∧
    decode [0b11100100] = .ok (.illegalE4, []) ∧
    decode [0b11101011] = .ok (.illegalEB, []) ∧
    decode [0b11101100] = .ok (.illegalEC, []) ∧
    decode [0b11101101] = .ok (.illegalED, []) ∧
    decode [0b11110100] = .ok (.illegalF4, []) ∧
    decode [0b11111100] = .ok (.illegalFC, []) ∧
    decode [0b11111101] = .ok (.illegalFD, []) :=
  ⟨rfl, rfl, rfl, rfl, rfl, rfl, rfl, rfl, rfl, rfl, rfl⟩

theorem test_decode_cb_shifts :
    decode [0b11001011, 0b00000011] = .ok (.rlcR .e, []) ∧
    decode [0b11001011, 0b00000110] = .ok (.rlcAtHl, []) ∧
    decode [0b11001011, 0b00001011] = .ok (.rrcR .e, []) ∧
    decode [0b11001011, 0b00001110] = .ok (.rrcAtHl, []) ∧
    decode [0b11001011, 0b00010011] = .ok (.rlR .e, []) ∧
    decode [0b11001011, 0b00010110] = .ok (.rlAtHl, []) ∧
    decode [0b11001011, 0b00011011] = .ok (.rrR .e, []) ∧
    decode [0b11001011, 0b00011110] = .ok (.rrAtHl, []) ∧
    decode [0b11001011, 0b00100011] = .ok (.slaR .e, []) ∧
    decode [0b11001011, 0b00100110] = .ok (.slaAtHl, []) ∧
    decode [0b11001011, 0b00101011] = .ok (.sraR .e, []) ∧
    decode [0b11001011, 0b00101110] = .ok (.sraAtHl, []) ∧
    decode [0b11001011, 0b00110011] = .ok (.swapR .e, []) ∧
    decode [0b11001011, 0b00110110] = .ok (.swapAtHl, []) ∧
    decode [0b11001011, 0b00111011] = .ok (.srlR .e, []) ∧
    decode [0b11001011, 0b00111110] = .ok (.srlAtHl, []) :=
  ⟨rfl, rfl, rfl, rfl, rfl, rfl, rfl, rfl, rfl, rfl, rfl, rfl, rfl, rfl, rfl, rfl⟩

theorem test_decode_cb_bits :
    decode [0b11001011, 0b01101011] = .ok (.bitBR 5 .e, []) ∧
    decode [0b11001011, 0b01101110] = .ok (.bitBAtHl 5, []) ∧
    decode [0b11001011, 0b10101011] = .ok (.resBR 5 .e, []) ∧
    decode [0b11001011, 0b10101110] = .ok (.resBAtHl 5, []) ∧
    decode [0b11001011, 0b11101011] = .ok (.setBR 5 .e, []) ∧
    decode [0b11001011, 0b11101110] = .ok (.setBAtHl 5, []) :=
  ⟨rfl, rfl, rfl, rfl, rfl, rfl⟩

/-! ## Words of the opcode table -/

theorem test_table_word_prefix : decodeTableWord 8 0xCB = some (.prefixCb 0x00) := by decide
theorem test_table_word_cb : decodeTableWord 16 0xCB06 = some .rlcAtHl := by decide
theorem test_table_word_nop : decodeTableWord 8 0x00 = some .nop := by decide
theorem test_fetch_word_runs :
    (nextOf (step (State.reset.withFetchWord 24 0x123401))).map (fun t => (t.cpu.bc, t.cpu.pc)) = some (0x1234, 0x0103) := by
  decide +kernel
theorem test_fetch_word_runs_cb :
    (nextOf (step (State.reset.withFetchWord 16 0xCB37))).map (fun t => (t.cpu.a, t.cpu.pc)) = some (0x10, 0x0102) := by
  decide +kernel

/-! ## One step of every instruction -/

/-- Vector L1 (R501). -/
theorem test_ldRR_L1 :
    shows [0x41] [] id
    [] ⟨0x01, 0xB0, 0x1313, 0x00D8, 0x014D, 0xFFFE, 0x0101, 4⟩ = true := by decide +kernel

/-- Vector L2 (R503). -/
theorem test_ldRAtHl_L2 :
    shows [0x7E] [(0xC123, 0x5A)] (fun s => { s with cpu.h := 0xC1, cpu.l := 0x23 })
    [] ⟨0x5A, 0xB0, 0x0013, 0x00D8, 0xC123, 0xFFFE, 0x0101, 8⟩ = true := by decide +kernel

/-- Vector L3 (R505). -/
theorem test_ldAtHlN_L3 :
    shows [0x36, 0x99] [] (fun s => { s with cpu.h := 0xC0, cpu.l := 0x00 })
    [(0xC000, 0x99)] ⟨0x01, 0xB0, 0x0013, 0x00D8, 0xC000, 0xFFFE, 0x0102, 12⟩ = true := by decide +kernel

/-- Vector L4 (R518). -/
theorem test_ldAAtHlInc_L4 :
    shows [0x2A] [] (fun s => { s with cpu.h := 0xFF, cpu.l := 0xFF, irq.ie := 0x1F })
    [] ⟨0x1F, 0xB0, 0x0013, 0x00D8, 0x0000, 0xFFFE, 0x0101, 8⟩ = true := by decide +kernel

/-- Vector L5 (R516). -/
theorem test_ldAAtHlDec_L5 :
    shows [0x3A] [] (fun s => { s with cpu.h := 0x00, cpu.l := 0x00 })
    [] ⟨0x00, 0xB0, 0x0013, 0x00D8, 0xFFFF, 0xFFFE, 0x0101, 8⟩ = true := by decide +kernel

/-- Vector L6 (R517). -/
theorem test_ldAtHlDecA_L6 :
    shows [0x32] [] (fun s => { s with cpu.h := 0xC0, cpu.l := 0x00 })
    [(0xC000, 0x01)] ⟨0x01, 0xB0, 0x0013, 0x00D8, 0xBFFF, 0xFFFE, 0x0101, 8⟩ = true := by decide +kernel

/-- Vector L7 (R514, R121). -/
theorem test_ldhAAtN_L7 :
    shows [0xF0, 0x00] [] id
    [] ⟨0xCF, 0xB0, 0x0013, 0x00D8, 0x014D, 0xFFFE, 0x0102, 12⟩ = true := by decide +kernel

/-- Vector L8 (R513). -/
theorem test_ldhAtCA_L8 :
    shows [0xE2] [] (fun s => { s with cpu.c := 0x80 })
    [(0xFF80, 0x01)] ⟨0x01, 0xB0, 0x0080, 0x00D8, 0x014D, 0xFFFE, 0x0101, 8⟩ = true := by decide +kernel

/-- Vector L9 (R510, R213). -/
theorem test_ldAAtNn_L9 :
    shows [0xFA, 0xA0, 0xFE] [] id
    [] ⟨0xFF, 0xB0, 0x0013, 0x00D8, 0x014D, 0xFFFE, 0x0103, 16⟩ = true := by decide +kernel

/-- Vector L10 (R511, R311). -/
theorem test_ldAtNnA_L10 :
    shows [0xEA, 0x00, 0x20] [] id
    [] ⟨0x01, 0xB0, 0x0013, 0x00D8, 0x014D, 0xFFFE, 0x0103, 16⟩ = true := by decide +kernel

/-- Vector L14 (R506). -/
theorem test_ldAAtBc_L14 :
    shows [0x0A] [] (fun s => { s with cpu.b := 0xFF, cpu.c := 0x44 })
    [] ⟨0x00, 0xB0, 0xFF44, 0x00D8, 0x014D, 0xFFFE, 0x0101, 8⟩ = true := by decide +kernel

/-- Vector S1 (R550). -/
theorem test_ldDdNn_S1 :
    shows [0x01, 0x34, 0x12] [] id
    [] ⟨0x01, 0xB0, 0x1234, 0x00D8, 0x014D, 0xFFFE, 0x0103, 12⟩ = true := by decide +kernel

/-- Vector S2 (R552). -/
theorem test_ldSpHl_S2 :
    shows [0xF9] [] (fun s => { s with cpu.h := 0xC0, cpu.l := 0xDE })
    [] ⟨0x01, 0xB0, 0x0013, 0x00D8, 0xC0DE, 0xC0DE, 0x0101, 8⟩ = true := by decide +kernel

/-- Vector S3 (R553). -/
theorem test_pushQq_S3 :
    shows [0xC5] [] (fun s => { s with cpu.b := 0x12, cpu.c := 0x34, cpu.sp := 0xDFF0 })
    [(0xDFEF, 0x12), (0xDFEE, 0x34)] ⟨0x01, 0xB0, 0x1234, 0x00D8, 0x014D, 0xDFEE, 0x0101, 16⟩ = true := by decide +kernel

/-- Vector S4 (R556). -/
theorem test_popAf_S4 :
    shows [0xF1] [(0xC000, 0xFF), (0xC001, 0x12)] (fun s => { s with cpu.sp := 0xC000 })
    [] ⟨0x12, 0xF0, 0x0013, 0x00D8, 0x014D, 0xC002, 0x0101, 12⟩ = true := by decide +kernel

/-- Vector S5 (R555). -/
theorem test_popQq_S5 :
    shows [0xD1] [(0xFFFE, 0x34)] (fun s => { s with irq.ie := 0x05 })
    [] ⟨0x01, 0xB0, 0x0013, 0x0534, 0x014D, 0x0000, 0x0101, 12⟩ = true := by decide +kernel

/-- Vector S7 (R551). -/
theorem test_ldAtNnSp_S7 :
    shows [0x08, 0x00, 0xC0] [] id
    [(0xC000, 0xFE), (0xC001, 0xFF)] ⟨0x01, 0xB0, 0x0013, 0x00D8, 0x014D, 0xFFFE, 0x0103, 20⟩ = true := by decide +kernel

/-- Vector S8 (R554). -/
theorem test_ldHlSpE_S8 :
    shows [0xF8, 0x01] [] (fun s => { s with cpu.sp := 0x00FF })
    [] ⟨0x01, 0x30, 0x0013, 0x00D8, 0x0100, 0x00FF, 0x0102, 12⟩ = true := by decide +kernel

/-- Vector S9 (R554). -/
theorem test_ldHlSpE_S9 :
    shows [0xF8, 0xFF] [] (fun s => { s with cpu.sp := 0x0000 })
    [] ⟨0x01, 0x00, 0x0013, 0x00D8, 0xFFFF, 0x0000, 0x0102, 12⟩ = true := by decide +kernel

/-- Vector A1 (R612). -/
theorem test_addAN_A1 :
    shows [0xC6, 0xC6] [] (fun s => { s with cpu.a := 0x3A })
    [] ⟨0x00, 0xB0, 0x0013, 0x00D8, 0x014D, 0xFFFE, 0x0102, 8⟩ = true := by decide +kernel

/-- Vector A3 (R615). -/
theorem test_adcAN_A3 :
    shows [0xCE, 0x0F] [] (fun s => { s with cpu.a := 0xE1, cpu.f := Flags.ofByte 0x10 })
    [] ⟨0xF1, 0x20, 0x0013, 0x00D8, 0x014D, 0xFFFE, 0x0102, 8⟩ = true := by decide +kernel

/-- Vector A5 (R616). -/
theorem test_subR_A5 :
    shows [0x90] [] (fun s => { s with cpu.a := 0x3E, cpu.b := 0x3E })
    [] ⟨0x00, 0xC0, 0x3E13, 0x00D8, 0x014D, 0xFFFE, 0x0101, 4⟩ = true := by decide +kernel

/-- Vector A6 (R618). -/
theorem test_subN_A6 :
    shows [0xD6, 0x0F] [] (fun s => { s with cpu.a := 0x3E })
    [] ⟨0x2F, 0x60, 0x0013, 0x00D8, 0x014D, 0xFFFE, 0x0102, 8⟩ = true := by decide +kernel

/-- Vector A7 (R618). -/
theorem test_subN_A7 :
    shows [0xD6, 0x40] [] (fun s => { s with cpu.a := 0x3E })
    [] ⟨0xFE, 0x50, 0x0013, 0x00D8, 0x014D, 0xFFFE, 0x0102, 8⟩ = true := by decide +kernel

/-- Vector A8 (R621). -/
theorem test_sbcAN_A8 :
    shows [0xDE, 0x2A] [] (fun s => { s with cpu.a := 0x3B, cpu.f := Flags.ofByte 0x10 })
    [] ⟨0x10, 0x40, 0x0013, 0x00D8, 0x014D, 0xFFFE, 0x0102, 8⟩ = true := by decide +kernel

/-- Vector A10 (R624). -/
theorem test_andN_A10 :
    shows [0xE6, 0x38] [] (fun s => { s with cpu.a := 0x5A })
    [] ⟨0x18, 0x20, 0x0013, 0x00D8, 0x014D, 0xFFFE, 0x0102, 8⟩ = true := by decide +kernel

/-- Vector A12 (R625). -/
theorem test_xorR_A12 :
    shows [0xAF] [] (fun s => { s with cpu.a := 0x5A, cpu.f := Flags.ofByte 0x70 })
    [] ⟨0x00, 0x80, 0x0013, 0x00D8, 0x014D, 0xFFFE, 0x0101, 4⟩ = true := by decide +kernel

/-- Vector A13 (R630). -/
theorem test_orN_A13 :
    shows [0xF6, 0x03] [] (fun s => { s with cpu.a := 0x5A, cpu.f := Flags.ofByte 0xF0 })
    [] ⟨0x5B, 0x00, 0x0013, 0x00D8, 0x014D, 0xFFFE, 0x0102, 8⟩ = true := by decide +kernel

/-- Vector A14 (R633). -/
theorem test_cpN_A14 :
    shows [0xFE, 0x2F] [] (fun s => { s with cpu.a := 0x3C })
    [] ⟨0x3C, 0x60, 0x0013, 0x00D8, 0x014D, 0xFFFE, 0x0102, 8⟩ = true := by decide +kernel

/-- Vector A17 (R632). -/
theorem test_cpAtHl_A17 :
    shows [0xBE] [(0xC000, 0x40)] (fun s => { s with cpu.a := 0x3C, cpu.h := 0xC0, cpu.l := 0x00 })
    [] ⟨0x3C, 0x50, 0x0013, 0x00D8, 0xC000, 0xFFFE, 0x0101, 8⟩ = true := by decide +kernel

/-- Vector A18 (R640). -/
theorem test_incR_A18 :
    shows [0x3C] [] (fun s => { s with cpu.a := 0xFF, cpu.f := Flags.ofByte 0x10 })
    [] ⟨0x00, 0xB0, 0x0013, 0x00D8, 0x014D, 0xFFFE, 0x0101, 4⟩ = true := by decide +kernel

/-- Vector A19 (R640). -/
theorem test_incR_A19 :
    shows [0x04] [] (fun s => { s with cpu.b := 0x0F, cpu.f := Flags.ofByte 0x00 })
    [] ⟨0x01, 0x20, 0x1013, 0x00D8, 0x014D, 0xFFFE, 0x0101, 4⟩ = true := by decide +kernel

/-- Vector A20 (R642). -/
theorem test_decR_A20 :
    shows [0x0D] [] (fun s => { s with cpu.c := 0x01, cpu.f := Flags.ofByte 0x00 })
    [] ⟨0x01, 0xC0, 0x0000, 0x00D8, 0x014D, 0xFFFE, 0x0101, 4⟩ = true := by decide +kernel

/-- Vector A23 (R641). -/
theorem test_incAtHl_A23 :
    shows [0x34] [(0xC000, 0x7F)] (fun s => { s with cpu.h := 0xC0, cpu.l := 0x00, cpu.f := Flags.ofByte 0x00 })
    [(0xC000, 0x80)] ⟨0x01, 0x20, 0x0013, 0x00D8, 0xC000, 0xFFFE, 0x0101, 12⟩ = true := by decide +kernel

/-- Vector A24 (R643). -/
theorem test_decAtHl_A24 :
    shows [0x35] [(0xC000, 0x00)] (fun s => { s with cpu.h := 0xC0, cpu.l := 0x00, cpu.f := Flags.ofByte 0x00 })
    [(0xC000, 0xFF)] ⟨0x01, 0x60, 0x0013, 0x00D8, 0xC000, 0xFFFE, 0x0101, 12⟩ = true := by decide +kernel

/-- Vector A25 (R650). -/
theorem test_daa_A25 :
    shows [0x27] [] (fun s => { s with cpu.a := 0x9A, cpu.f := Flags.ofByte 0x00 })
    [] ⟨0x00, 0x90, 0x0013, 0x00D8, 0x014D, 0xFFFE, 0x0101, 4⟩ = true := by decide +kernel

/-- Vector A26 (R650). -/
theorem test_daa_A26 :
    shows [0x27] [] (fun s => { s with cpu.a := 0x00, cpu.f := Flags.ofByte 0x30 })
    [] ⟨0x66, 0x10, 0x0013, 0x00D8, 0x014D, 0xFFFE, 0x0101, 4⟩ = true := by decide +kernel

/-- Vector A32 (R651). -/
theorem test_cpl_A32 :
    shows [0x2F] [] (fun s => { s with cpu.a := 0x35, cpu.f := Flags.ofByte 0x90 })
    [] ⟨0xCA, 0xF0, 0x0013, 0x00D8, 0x014D, 0xFFFE, 0x0101, 4⟩ = true := by decide +kernel

/-- Vector A33 (R652). -/
theorem test_scf_A33 :
    shows [0x37] [] (fun s => { s with cpu.f := Flags.ofByte 0xE0 })
    [] ⟨0x01, 0x90, 0x0013, 0x00D8, 0x014D, 0xFFFE, 0x0101, 4⟩ = true := by decide +kernel

/-- Vector A34 (R653). -/
theorem test_ccf_A34 :
    shows [0x3F] [] (fun s => { s with cpu.f := Flags.ofByte 0x70 })
    [] ⟨0x01, 0x00, 0x0013, 0x00D8, 0x014D, 0xFFFE, 0x0101, 4⟩ = true := by decide +kernel

/-- Vector A36 (R613). -/
theorem test_adcAR_A36 :
    shows [0x88] [] (fun s => { s with cpu.a := 0x0F, cpu.f := Flags.ofByte 0x10 })
    [] ⟨0x10, 0x20, 0x0013, 0x00D8, 0x014D, 0xFFFE, 0x0101, 4⟩ = true := by decide +kernel

/-- Vector A37 (R619). -/
theorem test_sbcAR_A37 :
    shows [0x98] [] (fun s => { s with cpu.a := 0x10, cpu.f := Flags.ofByte 0x10 })
    [] ⟨0x0F, 0x60, 0x0013, 0x00D8, 0x014D, 0xFFFE, 0x0101, 4⟩ = true := by decide +kernel

/-- Vector A38 (R610). -/
theorem test_addAR_A38 :
    shows [0x87] [] (fun s => { s with cpu.a := 0x80, cpu.f := Flags.ofByte 0x00 })
    [] ⟨0x00, 0x90, 0x0013, 0x00D8, 0x014D, 0xFFFE, 0x0101, 4⟩ = true := by decide +kernel

/-- Vector W1 (R701). -/
theorem test_addHlDd_W1 :
    shows [0x09] [] (fun s => { s with cpu.b := 0x06, cpu.c := 0x05, cpu.h := 0x8A, cpu.l := 0x23, cpu.f := Flags.ofByte 0x80 })
    [] ⟨0x01, 0xA0, 0x0605, 0x00D8, 0x9028, 0xFFFE, 0x0101, 8⟩ = true := by decide +kernel

/-- Vector W5 (R702). -/
theorem test_incDd_W5 :
    shows [0x03] [] (fun s => { s with cpu.b := 0xFF, cpu.c := 0xFF })
    [] ⟨0x01, 0xB0, 0x0000, 0x00D8, 0x014D, 0xFFFE, 0x0101, 8⟩ = true := by decide +kernel

/-- Vector W6 (R703). -/
theorem test_decDd_W6 :
    shows [0x3B] [] (fun s => { s with cpu.sp := 0x0000 })
    [] ⟨0x01, 0xB0, 0x0013, 0x00D8, 0x014D, 0xFFFF, 0x0101, 8⟩ = true := by decide +kernel

/-- Vector W8 (R704). -/
theorem test_addSpE_W8 :
    shows [0xE8, 0x02] [] (fun s => { s with cpu.sp := 0xFFF8 })
    [] ⟨0x01, 0x00, 0x0013, 0x00D8, 0x014D, 0xFFFA, 0x0102, 16⟩ = true := by decide +kernel

/-- Vector W9 (R704). -/
theorem test_addSpE_W9 :
    shows [0xE8, 0xFF] [] (fun s => { s with cpu.f := Flags.ofByte 0xF0, cpu.sp := 0x0000 })
    [] ⟨0x01, 0x00, 0x0013, 0x00D8, 0x014D, 0xFFFF, 0x0102, 16⟩ = true := by decide +kernel

/-- Vector B1 (R751). -/
theorem test_rlca_B1 :
    shows [0x07] [] (fun s => { s with cpu.a := 0x85, cpu.f := Flags.ofByte 0x80 })
    [] ⟨0x0B, 0x10, 0x0013, 0x00D8, 0x014D, 0xFFFE, 0x0101, 4⟩ = true := by decide +kernel

/-- Vector B2 (R752). -/
theorem test_rrca_B2 :
    shows [0x0F] [] (fun s => { s with cpu.a := 0x3B, cpu.f := Flags.ofByte 0x00 })
    [] ⟨0x9D, 0x10, 0x0013, 0x00D8, 0x014D, 0xFFFE, 0x0101, 4⟩ = true := by decide +kernel

/-- Vector B3 (R753). -/
theorem test_rla_B3 :
    shows [0x17] [] (fun s => { s with cpu.a := 0x80, cpu.f := Flags.ofByte 0x00 })
    [] ⟨0x00, 0x10, 0x0013, 0x00D8, 0x014D, 0xFFFE, 0x0101, 4⟩ = true := by decide +kernel

/-- Vector B4 (R754). -/
theorem test_rra_B4 :
    shows [0x1F] [] (fun s => { s with cpu.f := Flags.ofByte 0x10 })
    [] ⟨0x80, 0x10, 0x0013, 0x00D8, 0x014D, 0xFFFE, 0x0101, 4⟩ = true := by decide +kernel

/-- Vector B5 (R764). -/
theorem test_rlR_B5 :
    shows [0xCB, 0x17] [] (fun s => { s with cpu.a := 0x80, cpu.f := Flags.ofByte 0x00 })
    [] ⟨0x00, 0x90, 0x0013, 0x00D8, 0x014D, 0xFFFE, 0x0102, 8⟩ = true := by decide +kernel

/-- Vector B6 (R760). -/
theorem test_rlcR_B6 :
    shows [0xCB, 0x00] [] (fun s => { s with cpu.b := 0x85, cpu.f := Flags.ofByte 0x00 })
    [] ⟨0x01, 0x10, 0x0B13, 0x00D8, 0x014D, 0xFFFE, 0x0102, 8⟩ = true := by decide +kernel

/-- Vector B7 (R762). -/
theorem test_rrcR_B7 :
    shows [0xCB, 0x09] [] (fun s => { s with cpu.c := 0x01, cpu.f := Flags.ofByte 0x00 })
    [] ⟨0x01, 0x10, 0x0080, 0x00D8, 0x014D, 0xFFFE, 0x0102, 8⟩ = true := by decide +kernel

/-- Vector B8 (R766). -/
theorem test_rrR_B8 :
    shows [0xCB, 0x1A] [] (fun s => { s with cpu.d := 0x01, cpu.f := Flags.ofByte 0x00 })
    [] ⟨0x01, 0x90, 0x0013, 0x00D8, 0x014D, 0xFFFE, 0x0102, 8⟩ = true := by decide +kernel

/-- Vector B9 (R768). -/
theorem test_slaR_B9 :
    shows [0xCB, 0x23] [] (fun s => { s with cpu.e := 0x80, cpu.f := Flags.ofByte 0x00 })
    [] ⟨0x01, 0x90, 0x0013, 0x0000, 0x014D, 0xFFFE, 0x0102, 8⟩ = true := by decide +kernel

/-- Vector B10 (R770). -/
theorem test_sraR_B10 :
    shows [0xCB, 0x2C] [] (fun s => { s with cpu.h := 0x8A, cpu.f := Flags.ofByte 0x00 })
    [] ⟨0x01, 0x00, 0x0013, 0x00D8, 0xC54D, 0xFFFE, 0x0102, 8⟩ = true := by decide +kernel

/-- Vector B11 (R774). -/
theorem test_srlR_B11 :
    shows [0xCB, 0x3D] [] (fun s => { s with cpu.l := 0x01, cpu.f := Flags.ofByte 0x00 })
    [] ⟨0x01, 0x90, 0x0013, 0x00D8, 0x0100, 0xFFFE, 0x0102, 8⟩ = true := by decide +kernel

/-- Vector B12 (R772). -/
theorem test_swapR_B12 :
    shows [0xCB, 0x37] [] (fun s => { s with cpu.a := 0xF0, cpu.f := Flags.ofByte 0x70 })
    [] ⟨0x0F, 0x00, 0x0013, 0x00D8, 0x014D, 0xFFFE, 0x0102, 8⟩ = true := by decide +kernel

/-- Vector B14 (R761). -/
theorem test_rlcAtHl_B14 :
    shows [0xCB, 0x06] [(0xC000, 0x80)] (fun s => { s with cpu.h := 0xC0, cpu.l := 0x00, cpu.f := Flags.ofByte 0x00 })
    [(0xC000, 0x01)] ⟨0x01, 0x10, 0x0013, 0x00D8, 0xC000, 0xFFFE, 0x0102, 16⟩ = true := by decide +kernel

/-- Vector B15 (R780). -/
theorem test_bitBR_B15 :
    shows [0xCB, 0x7C] [] (fun s => { s with cpu.h := 0x7F, cpu.f := Flags.ofByte 0x10 })
    [] ⟨0x01, 0xB0, 0x0013, 0x00D8, 0x7F4D, 0xFFFE, 0x0102, 8⟩ = true := by decide +kernel

/-- Vector B17 (R781). -/
theorem test_bitBAtHl_B17 :
    shows [0xCB, 0x46] [(0xC000, 0xFE)] (fun s => { s with cpu.h := 0xC0, cpu.l := 0x00, cpu.f := Flags.ofByte 0x00 })
    [] ⟨0x01, 0xA0, 0x0013, 0x00D8, 0xC000, 0xFFFE, 0x0102, 12⟩ = true := by decide +kernel

/-- Vector B18 (R782). -/
theorem test_resBR_B18 :
    shows [0xCB, 0x87] [] (fun s => { s with cpu.a := 0xFF, cpu.f := Flags.ofByte 0x00 })
    [] ⟨0xFE, 0x00, 0x0013, 0x00D8, 0x014D, 0xFFFE, 0x0102, 8⟩ = true := by decide +kernel

/-- Vector B19 (R785). -/
theorem test_setBAtHl_B19 :
    shows [0xCB, 0xDE] [(0xC000, 0x00)] (fun s => { s with cpu.h := 0xC0, cpu.l := 0x00 })
    [(0xC000, 0x08)] ⟨0x01, 0xB0, 0x0013, 0x00D8, 0xC000, 0xFFFE, 0x0102, 16⟩ = true := by decide +kernel

/-- Vector B20 (R783). -/
theorem test_resBAtHl_B20 :
    shows [0xCB, 0xBE] [(0xC000, 0xFF)] (fun s => { s with cpu.h := 0xC0, cpu.l := 0x00 })
    [(0xC000, 0x7F)] ⟨0x01, 0xB0, 0x0013, 0x00D8, 0xC000, 0xFFFE, 0x0102, 16⟩ = true := by decide +kernel

/-- Vector J1 (R800). -/
theorem test_jpNn_J1 :
    shows [0xC3, 0x50, 0x01] [] id
    [] ⟨0x01, 0xB0, 0x0013, 0x00D8, 0x014D, 0xFFFE, 0x0150, 16⟩ = true := by decide +kernel

/-- Vector J2 (R801). -/
theorem test_jpCcNn_J2 :
    shows [0xC2, 0x50, 0x01] [] id
    [] ⟨0x01, 0xB0, 0x0013, 0x00D8, 0x014D, 0xFFFE, 0x0103, 12⟩ = true := by decide +kernel

/-- Vector J3 (R801). -/
theorem test_jpCcNn_J3 :
    shows [0xCA, 0x50, 0x01] [] id
    [] ⟨0x01, 0xB0, 0x0013, 0x00D8, 0x014D, 0xFFFE, 0x0150, 16⟩ = true := by decide +kernel

/-- Vector J4 (R802). -/
theorem test_jpHl_J4 :
    shows [0xE9] [] (fun s => { s with cpu.h := 0xC0, cpu.l := 0x00 })
    [] ⟨0x01, 0xB0, 0x0013, 0x00D8, 0xC000, 0xFFFE, 0xC000, 4⟩ = true := by decide +kernel

/-- Vector J5 (R803). -/
theorem test_jrE_J5 :
    shows [0x18, 0xFE] [] id
    [] ⟨0x01, 0xB0, 0x0013, 0x00D8, 0x014D, 0xFFFE, 0x0100, 12⟩ = true := by decide +kernel

/-- Vector J8 (R804). -/
theorem test_jrCcE_J8 :
    shows [0x38, 0x05] [] id
    [] ⟨0x01, 0xB0, 0x0013, 0x00D8, 0x014D, 0xFFFE, 0x0107, 12⟩ = true := by decide +kernel

/-- Vector J9 (R804). -/
theorem test_jrCcE_J9 :
    shows [0x30, 0x05] [] id
    [] ⟨0x01, 0xB0, 0x0013, 0x00D8, 0x014D, 0xFFFE, 0x0102, 8⟩ = true := by decide +kernel

/-- Vector J10 (R805). -/
theorem test_callNn_J10 :
    shows [0xCD, 0x34, 0x12] [] id
    [(0xFFFD, 0x01), (0xFFFC, 0x03)] ⟨0x01, 0xB0, 0x0013, 0x00D8, 0x014D, 0xFFFC, 0x1234, 24⟩ = true := by decide +kernel

/-- Vector J11 (R806). -/
theorem test_callCcNn_J11 :
    shows [0xC4, 0x34, 0x12] [] id
    [] ⟨0x01, 0xB0, 0x0013, 0x00D8, 0x014D, 0xFFFE, 0x0103, 12⟩ = true := by decide +kernel

/-- Vector J12 (R807). -/
theorem test_ret_J12 :
    shows [0xC9] [(0xC000, 0x34), (0xC001, 0x12)] (fun s => { s with cpu.sp := 0xC000 })
    [] ⟨0x01, 0xB0, 0x0013, 0x00D8, 0x014D, 0xC002, 0x1234, 16⟩ = true := by decide +kernel

/-- Vector J13 (R808). -/
theorem test_retCc_J13 :
    shows [0xC8] [(0xC000, 0x34), (0xC001, 0x12)] (fun s => { s with cpu.sp := 0xC000 })
    [] ⟨0x01, 0xB0, 0x0013, 0x00D8, 0x014D, 0xC002, 0x1234, 20⟩ = true := by decide +kernel

/-- Vector J14 (R808). -/
theorem test_retCc_J14 :
    shows [0xC0] [] (fun s => { s with cpu.sp := 0xC000 })
    [] ⟨0x01, 0xB0, 0x0013, 0x00D8, 0x014D, 0xC000, 0x0101, 8⟩ = true := by decide +kernel

/-- Vector J15 (R809). -/
theorem test_reti_J15 :
    shows [0xD9] [(0xC000, 0x34), (0xC001, 0x12)] (fun s => { s with cpu.sp := 0xC000, cpu.ime := false })
    [] ⟨0x01, 0xB0, 0x0013, 0x00D8, 0x014D, 0xC002, 0x1234, 16⟩ = true ∧
    (ran [0xD9] [(0xC000, 0x34), (0xC001, 0x12)] (fun s => { s with cpu.sp := 0xC000, cpu.ime := false })).map (fun t => t.cpu.ime) = some true := by decide +kernel

/-- Vector J16 (R810). -/
theorem test_rstT_J16 :
    shows [0xFF] [] id
    [(0xFFFD, 0x01), (0xFFFC, 0x01)] ⟨0x01, 0xB0, 0x0013, 0x00D8, 0x014D, 0xFFFC, 0x0038, 16⟩ = true := by decide +kernel

/-- Vector Y1 (R850). -/
theorem test_nop_Y1 :
    shows [0x00] [] id
    [] ⟨0x01, 0xB0, 0x0013, 0x00D8, 0x014D, 0xFFFE, 0x0101, 4⟩ = true := by decide +kernel

/-- Vector Y2 (R852). -/
theorem test_halt_Y2 :
    shows [0x76] [] (fun s => { s with cpu.ime := false, irq.ie := 0x00 })
    [] ⟨0x01, 0xB0, 0x0013, 0x00D8, 0x014D, 0xFFFE, 0x0101, 4⟩ = true ∧
    (ran [0x76] [] (fun s => { s with cpu.ime := false, irq.ie := 0x00 })).map (fun t => t.cpu.halted) = some true := by decide +kernel

/-- Vector Y6 (R853). -/
theorem test_stop_Y6 :
    shows [0x10, 0x00] [] id
    [] ⟨0x01, 0xB0, 0x0013, 0x00D8, 0x014D, 0xFFFE, 0x0102, 4⟩ = true ∧
    (ran [0x10, 0x00] [] id).map (fun t => t.cpu.stopped) = some true := by decide +kernel

/-- Vector Y7 (R854). -/
theorem test_di_Y7 :
    shows [0xF3] [] (fun s => { s with cpu.ime := true })
    [] ⟨0x01, 0xB0, 0x0013, 0x00D8, 0x014D, 0xFFFE, 0x0101, 4⟩ = true ∧
    (ran [0xF3] [] (fun s => { s with cpu.ime := true })).map (fun t => t.cpu.ime) = some false := by decide +kernel

/-- Vector I1 (R904, R910). -/
theorem test_nop_I1 :
    shows [0x00] [] (fun s => { s with cpu.ime := true, irq.ie := 0x05, irq.iflag := 0b00101 })
    [(0xFF0F, 0xE4)] ⟨0x01, 0xB0, 0x0013, 0x00D8, 0x014D, 0xFFFC, 0x0040, 20⟩ = true ∧
    (ran [0x00] [] (fun s => { s with cpu.ime := true, irq.ie := 0x05, irq.iflag := 0b00101 })).map (fun t => t.cpu.ime) = some false := by decide +kernel

/-- Vector I2 (R904, R910). -/
theorem test_nop_I2 :
    shows [0x00] [] (fun s => { s with cpu.ime := true, irq.ie := 0x04, irq.iflag := 0b00101 })
    [(0xFF0F, 0xE1)] ⟨0x01, 0xB0, 0x0013, 0x00D8, 0x014D, 0xFFFC, 0x0050, 20⟩ = true ∧
    (ran [0x00] [] (fun s => { s with cpu.ime := true, irq.ie := 0x04, irq.iflag := 0b00101 })).map (fun t => t.cpu.ime) = some false := by decide +kernel

/-- Vector I3 (R903). -/
theorem test_nop_I3 :
    shows [0x00] [] (fun s => { s with cpu.ime := true, irq.ie := 0xE0, irq.iflag := 0b00001 })
    [] ⟨0x01, 0xB0, 0x0013, 0x00D8, 0x014D, 0xFFFE, 0x0101, 4⟩ = true := by decide +kernel

/-- Vector I4 (R910). -/
theorem test_nop_I4 :
    shows [0x00] [] (fun s => { s with cpu.sp := 0xD000, cpu.ime := true, irq.ie := 0x10, irq.iflag := 0b10000 })
    [(0xCFFF, 0x01), (0xCFFE, 0x00), (0xFF0F, 0xE0)] ⟨0x01, 0xB0, 0x0013, 0x00D8, 0x014D, 0xCFFE, 0x0060, 20⟩ = true ∧
    (ran [0x00] [] (fun s => { s with cpu.sp := 0xD000, cpu.ime := true, irq.ie := 0x10, irq.iflag := 0b10000 })).map (fun t => t.cpu.ime) = some false := by decide +kernel

/-- Vector I5 (R910). -/
theorem test_nop_I5 :
    shows [0x00] [] (fun s => { s with cpu.sp := 0x0001, cpu.ime := true, irq.ie := 0x01, irq.iflag := 0b00001 })
    [(0xFFFF, 0x00), (0xFF0F, 0xE0)] ⟨0x01, 0xB0, 0x0013, 0x00D8, 0x014D, 0xFFFF, 0x0040, 20⟩ = true ∧
    (ran [0x00] [] (fun s => { s with cpu.sp := 0x0001, cpu.ime := true, irq.ie := 0x01, irq.iflag := 0b00001 })).map (fun t => t.cpu.ime) = some false := by decide +kernel

/-- Vector I6 (R903). -/
theorem test_nop_I6 :
    shows [0x00] [] (fun s => { s with cpu.ime := false, irq.ie := 0x1F, irq.iflag := 0b11111 })
    [] ⟨0x01, 0xB0, 0x0013, 0x00D8, 0x014D, 0xFFFE, 0x0101, 4⟩ = true := by decide +kernel

/-- The example of R502. -/
theorem test_ldRN_R502 :
    shows [0x0E, 0x5A] [] id
    [] ⟨0x01, 0xB0, 0x005A, 0x00D8, 0x014D, 0xFFFE, 0x0102, 8⟩ = true := by decide +kernel

/-- The example of R504. -/
theorem test_ldAtHlR_R504 :
    shows [0x70] [] (fun s => { s with cpu.b := 0x7F, cpu.h := 0xC0, cpu.l := 0x10 })
    [(0xC010, 0x7F)] ⟨0x01, 0xB0, 0x7F13, 0x00D8, 0xC010, 0xFFFE, 0x0101, 8⟩ = true := by decide +kernel

/-- The example of R507. -/
theorem test_ldAAtDe_R507 :
    shows [0x1A] [(0xC104, 0xCE)] (fun s => { s with cpu.d := 0xC1, cpu.e := 0x04 })
    [] ⟨0xCE, 0xB0, 0x0013, 0xC104, 0x014D, 0xFFFE, 0x0101, 8⟩ = true := by decide +kernel

/-- The example of R508. -/
theorem test_ldAtBcA_R508 :
    shows [0x02] [] (fun s => { s with cpu.a := 0x3C, cpu.b := 0xC0, cpu.c := 0x00 })
    [(0xC000, 0x3C)] ⟨0x3C, 0xB0, 0xC000, 0x00D8, 0x014D, 0xFFFE, 0x0101, 8⟩ = true := by decide +kernel

/-- The example of R512. -/
theorem test_ldhAAtC_R512 :
    shows [0xF2] [] (fun s => { s with cpu.c := 0x44, ppu.line := 144, ppu.mode := .vblank })
    [] ⟨0x90, 0xB0, 0x0044, 0x00D8, 0x014D, 0xFFFE, 0x0101, 8⟩ = true := by decide +kernel

/-- The example of R515. -/
theorem test_ldhAtNA_R515 :
    shows [0xE0, 0x40] [] (fun s => { s with cpu.a := 0x91 })
    [(0xFF40, 0x91)] ⟨0x91, 0xB0, 0x0013, 0x00D8, 0x014D, 0xFFFE, 0x0102, 12⟩ = true := by decide +kernel

/-- The example of R519. -/
theorem test_ldAtHlIncA_R519 :
    shows [0x22] [] (fun s => { s with cpu.a := 0xEE, cpu.h := 0xC0, cpu.l := 0x00 })
    [(0xC000, 0xEE)] ⟨0xEE, 0xB0, 0x0013, 0x00D8, 0xC001, 0xFFFE, 0x0101, 8⟩ = true := by decide +kernel

/-- The example of R611. -/
theorem test_addAAtHl_R611 :
    shows [0x86] [(0xC000, 0x12)] (fun s => { s with cpu.a := 0x3C, cpu.h := 0xC0, cpu.l := 0x00 })
    [] ⟨0x4E, 0x00, 0x0013, 0x00D8, 0xC000, 0xFFFE, 0x0101, 8⟩ = true := by decide +kernel

/-- The example of R614. -/
theorem test_adcAAtHl_R614 :
    shows [0x8E] [(0xC000, 0x1E)] (fun s => { s with cpu.a := 0xE1, cpu.h := 0xC0, cpu.l := 0x00, cpu.f := Flags.ofByte 0x10 })
    [] ⟨0x00, 0xB0, 0x0013, 0x00D8, 0xC000, 0xFFFE, 0x0101, 8⟩ = true := by decide +kernel

/-- The example of R617. -/
theorem test_subAtHl_R617 :
    shows [0x96] [(0xC000, 0x40)] (fun s => { s with cpu.a := 0x3E, cpu.h := 0xC0, cpu.l := 0x00 })
    [] ⟨0xFE, 0x50, 0x0013, 0x00D8, 0xC000, 0xFFFE, 0x0101, 8⟩ = true := by decide +kernel

/-- The example of R620. -/
theorem test_sbcAAtHl_R620 :
    shows [0x9E] [(0xC000, 0x4F)] (fun s => { s with cpu.a := 0x3B, cpu.h := 0xC0, cpu.l := 0x00, cpu.f := Flags.ofByte 0x10 })
    [] ⟨0xEB, 0x70, 0x0013, 0x00D8, 0xC000, 0xFFFE, 0x0101, 8⟩ = true := by decide +kernel

/-- The example of R622. -/
theorem test_andR_R622 :
    shows [0xA5] [] (fun s => { s with cpu.a := 0x5A, cpu.l := 0x3F })
    [] ⟨0x1A, 0x20, 0x0013, 0x00D8, 0x013F, 0xFFFE, 0x0101, 4⟩ = true := by decide +kernel

/-- The example of R623. -/
theorem test_andAtHl_R623 :
    shows [0xA6] [(0xC000, 0x00)] (fun s => { s with cpu.a := 0x5A, cpu.h := 0xC0, cpu.l := 0x00 })
    [] ⟨0x00, 0xA0, 0x0013, 0x00D8, 0xC000, 0xFFFE, 0x0101, 8⟩ = true := by decide +kernel

/-- The example of R626. -/
theorem test_xorAtHl_R626 :
    shows [0xAE] [(0xC000, 0x8A)] (fun s => { s with cpu.a := 0xFF, cpu.h := 0xC0, cpu.l := 0x00 })
    [] ⟨0x75, 0x00, 0x0013, 0x00D8, 0xC000, 0xFFFE, 0x0101, 8⟩ = true := by decide +kernel

/-- The example of R627. -/
theorem test_xorN_R627 :
    shows [0xEE, 0x0F] [] (fun s => { s with cpu.a := 0xFF })
    [] ⟨0xF0, 0x00, 0x0013, 0x00D8, 0x014D, 0xFFFE, 0x0102, 8⟩ = true := by decide +kernel

/-- The example of R628. -/
theorem test_orR_R628 :
    shows [0xB7] [] (fun s => { s with cpu.a := 0x5A })
    [] ⟨0x5A, 0x00, 0x0013, 0x00D8, 0x014D, 0xFFFE, 0x0101, 4⟩ = true := by decide +kernel

/-- The example of R629. -/
theorem test_orAtHl_R629 :
    shows [0xB6] [(0xC000, 0x0F)] (fun s => { s with cpu.a := 0x5A, cpu.h := 0xC0, cpu.l := 0x00 })
    [] ⟨0x5F, 0x00, 0x0013, 0x00D8, 0xC000, 0xFFFE, 0x0101, 8⟩ = true := by decide +kernel

/-- The example of R631. -/
theorem test_cpR_R631 :
    shows [0xB8] [] (fun s => { s with cpu.a := 0x3C, cpu.b := 0x2F })
    [] ⟨0x3C, 0x60, 0x2F13, 0x00D8, 0x014D, 0xFFFE, 0x0101, 4⟩ = true := by decide +kernel

/-- The example of R763. -/
theorem test_rrcAtHl_R763 :
    shows [0xCB, 0x0E] [(0xC000, 0x01)] (fun s => { s with cpu.h := 0xC0, cpu.l := 0x00, cpu.f := Flags.ofByte 0x10 })
    [(0xC000, 0x80)] ⟨0x01, 0x10, 0x0013, 0x00D8, 0xC000, 0xFFFE, 0x0102, 16⟩ = true := by decide +kernel

/-- The example of R765. -/
theorem test_rlAtHl_R765 :
    shows [0xCB, 0x16] [(0xC000, 0x01)] (fun s => { s with cpu.h := 0xC0, cpu.l := 0x00, cpu.f := Flags.ofByte 0x10 })
    [(0xC000, 0x03)] ⟨0x01, 0x00, 0x0013, 0x00D8, 0xC000, 0xFFFE, 0x0102, 16⟩ = true := by decide +kernel

/-- The example of R767. -/
theorem test_rrAtHl_R767 :
    shows [0xCB, 0x1E] [(0xC000, 0x01)] (fun s => { s with cpu.h := 0xC0, cpu.l := 0x00, cpu.f := Flags.ofByte 0x10 })
    [(0xC000, 0x80)] ⟨0x01, 0x10, 0x0013, 0x00D8, 0xC000, 0xFFFE, 0x0102, 16⟩ = true := by decide +kernel

/-- The example of R769. -/
theorem test_slaAtHl_R769 :
    shows [0xCB, 0x26] [(0xC000, 0x01)] (fun s => { s with cpu.h := 0xC0, cpu.l := 0x00, cpu.f := Flags.ofByte 0x10 })
    [(0xC000, 0x02)] ⟨0x01, 0x00, 0x0013, 0x00D8, 0xC000, 0xFFFE, 0x0102, 16⟩ = true := by decide +kernel

/-- The example of R771. -/
theorem test_sraAtHl_R771 :
    shows [0xCB, 0x2E] [(0xC000, 0x01)] (fun s => { s with cpu.h := 0xC0, cpu.l := 0x00, cpu.f := Flags.ofByte 0x10 })
    [(0xC000, 0x00)] ⟨0x01, 0x90, 0x0013, 0x00D8, 0xC000, 0xFFFE, 0x0102, 16⟩ = true := by decide +kernel

/-- The example of R773. -/
theorem test_swapAtHl_R773 :
    shows [0xCB, 0x36] [(0xC000, 0x01)] (fun s => { s with cpu.h := 0xC0, cpu.l := 0x00, cpu.f := Flags.ofByte 0x10 })
    [(0xC000, 0x10)] ⟨0x01, 0x00, 0x0013, 0x00D8, 0xC000, 0xFFFE, 0x0102, 16⟩ = true := by decide +kernel

/-- The example of R775. -/
theorem test_srlAtHl_R775 :
    shows [0xCB, 0x3E] [(0xC000, 0x01)] (fun s => { s with cpu.h := 0xC0, cpu.l := 0x00, cpu.f := Flags.ofByte 0x10 })
    [(0xC000, 0x00)] ⟨0x01, 0x90, 0x0013, 0x00D8, 0xC000, 0xFFFE, 0x0102, 16⟩ = true := by decide +kernel

/-- The example of R784. -/
theorem test_setBR_R784 :
    shows [0xCB, 0xFF] [] (fun s => { s with cpu.a := 0x00 })
    [] ⟨0x80, 0xB0, 0x0013, 0x00D8, 0x014D, 0xFFFE, 0x0102, 8⟩ = true := by decide +kernel

/-- EI sets IME_DELAY and not yet IME (R855). -/
theorem test_ei_R855 :
    (ran [0xFB] [] id).map (fun t => (t.cpu.ime, t.cpu.imeDelay, t.cpu.pc, t.acct.cycles)) =
      some (false, true, 0x0101, 4) := by decide +kernel

/-- Each of the eleven unused opcodes locks, with PC past it (vector Y10, R432). -/
theorem test_unused_opcodes_Y10 :
    ([0xD3, 0xDB, 0xDD, 0xE3, 0xE4, 0xEB, 0xEC, 0xED, 0xF4, 0xFC, 0xFD] : List Byte).all (fun op =>
      (ran [op] [] id).map (fun t => (t.cpu.locked, t.cpu.lockOpcode, t.cpu.pc, t.acct.cycles)) ==
        some (true, op, 0x0101, 4)) = true := by decide +kernel

/-! ## The units (95_test_vectors.md T, X) -/

/-- A machine whose timer holds these values. -/
def timerState (div : Word) (tac : BitVec 3) (tima tma : Byte) : State :=
  { State.reset with timer := { div16 := div, tima := tima, tma := tma, tac := tac } }

/-- Vectors T1 and T2. -/
theorem test_timer_T1_T2 :
    (timerAdvance 15 (timerState 0 5 0 0)).timer.tima = 0x00 ∧ (timerAdvance 16 (timerState 0 5 0 0)).timer.tima = 0x01 := by
  decide +kernel
/-- Vector T6. -/
theorem test_timer_T6 :
    (timerAdvance 16 (timerState 0 5 0xFF 0x80)).timer.tima = 0x80 ∧
    memRead (timerAdvance 16 (timerState 0 5 0xFF 0x80)) 0xFF0F = 0xE5 := by decide +kernel
/-- Vectors T8 and T9. -/
theorem test_timer_T8_T9 :
    (memWrite (timerState 0x0008 5 0x10 0) 0xFF04 0x00).timer.tima = 0x11 ∧
    (memWrite (timerState 0x0007 5 0x10 0) 0xFF04 0x5A).timer.tima = 0x10 := by decide +kernel
/-- Vectors X0 to X2: SB and SC after 2048, 4095 and 4096 cycles. -/
theorem test_serial_X0_X2 :
    let s := memWrite { State.reset with serial.sb := 0x55, irq.iflag := 0 } 0xFF02 0x81
    (serialAdvance 2048 s).serial.sb = 0x5F ∧ memRead (serialAdvance 2048 s) 0xFF02 = 0xFF ∧
    memRead (serialAdvance 4095 s) 0xFF02 = 0xFF ∧ memRead (serialAdvance 4096 s) 0xFF02 = 0x7F ∧
    memRead (serialAdvance 4096 s) 0xFF0F = 0xE8 := by decide +kernel
/-- Vectors X4 and X6: A pressed with the action group, and with the direction group, selected. -/
theorem test_joypad_X4_X6 :
    let s : State := { State.reset with irq.iflag := 0 }
    memRead (joypadSet 0x10 (memWrite s 0xFF00 0x10)) 0xFF00 = 0xDE ∧
    memRead (joypadSet 0x10 (memWrite s 0xFF00 0x10)) 0xFF0F = 0xF0 ∧
    memRead (joypadSet 0x10 (memWrite s 0xFF00 0x20)) 0xFF00 = 0xEF ∧
    memRead (joypadSet 0x10 (memWrite s 0xFF00 0x20)) 0xFF0F = 0xE0 := by decide +kernel
/-- The header examples H1 and H4 (R302). -/
theorem test_header_H1_H4 :
    headerChecksumOk (List.replicate 25 0x00 ++ [0xE7]) = true ∧
    headerChecksumOk ([0x54, 0x45, 0x53, 0x54, 0x50, 0x52, 0x4F, 0x47, 0x52, 0x41, 0x4D] ++ List.replicate 14 0x00 ++
      [0x90]) = false := by decide

/-! ## Witnesses: a concrete input that meets the hypotheses of each statement -/

/-- Running from working memory, with the stack there. -/
def inRam (f : Cpu → Cpu) : State := { State.reset with cpu := f { State.reset.cpu with pc := 0xC000, sp := 0xC200 } }

theorem test_executes (s : State) (h : s.cpu.locked = false ∧ s.cpu.stopped = false ∧ s.cpu.halted = false ∧ s.cpu.ime = false) :
    Spec.executes s := ⟨h.1, h.2.1, by simp [h.2.2.1], by simp [h.2.2.2]⟩

theorem test_witness_DecodeOfEncode : (Instr.setBR 7 .a).WellFormed ∧ (Instr.jpCcNn .c 0xFFFF).WellFormed := by decide

theorem test_witness_PopAfterPush :
    ∃ (s t : State) (j k : Nat), storeCell s (s.cpu.sp - 1) = some j ∧ storeCell s (s.cpu.sp - 2) = some k ∧ j ≠ k ∧
      exec (.pushQq .bc) s = .next t ∧ StackPair.bc ≠ .af := by
  obtain ⟨t, h⟩ := exists_next (r := exec (.pushQq .bc) (inRam id)) (by decide +kernel)
  exact ⟨inRam id, t, 0x81FF, 0x81FE, by decide +kernel, by decide +kernel, by decide, h, by decide⟩

theorem test_witness_DaaIsDecimal :
    ∃ s t u : State, (99 : Nat) < 100 ∧ s.cpu.a.toNat = 99 / 10 * 16 + 99 % 10 ∧
      exec (.addAN (BitVec.ofNat 8 (99 / 10 * 16 + 99 % 10))) s = .next t ∧ exec .daa t = .next u := by
  obtain ⟨t, h⟩ := exists_next
    (r := exec (.addAN (BitVec.ofNat 8 (99 / 10 * 16 + 99 % 10))) (inRam fun x => { x with a := 0x99 }))
    (by decide +kernel)
  exact ⟨_, t, _, by decide, by decide +kernel, h, rfl⟩

theorem test_witness_ReturnAfterCall :
    ∃ (s t : State) (j k : Nat), storeCell s (s.cpu.sp - 1) = some j ∧ storeCell s (s.cpu.sp - 2) = some k ∧ j ≠ k ∧
      exec (.callNn 0x1234) s = .next t := by
  obtain ⟨t, h⟩ := exists_next (r := exec (.callNn 0x1234) (inRam id)) (by decide +kernel)
  exact ⟨inRam id, t, 0x81FF, 0x81FE, by decide +kernel, by decide +kernel, by decide, h⟩

theorem test_witness_NopDiEiHalt :
    (∃ s : State, s.params.haltBug = true ∧ s.cpu.ime = false ∧ ¬ Spec.nonePending s) ∧
    (∃ s : State, ¬ (s.params.haltBug = true ∧ s.cpu.ime = false ∧ ¬ Spec.nonePending s)) :=
  ⟨⟨{ State.reset with irq.ie := 0x01 }, by unfold Spec.nonePending; decide⟩,
   ⟨State.reset, by unfold Spec.nonePending; decide⟩⟩

theorem test_witness_Stop :
    (∃ s : State, s.params.mode = .color ∧ s.color.key1Armed = true) ∧
    (∃ s : State, ¬ (s.params.mode = .color ∧ s.color.key1Armed = true)) :=
  ⟨⟨{ State.reset with params.mode := .color, color.key1Armed := true }, by decide⟩, ⟨State.reset, by decide⟩⟩

/-- Also with the HALT bug pending, where the opcode byte is its own operand byte. -/
theorem test_witness_StepRunsDecoded :
    (∃ s i rest, Spec.executes s ∧ decode (Spec.window s) = .ok (i, rest)) ∧
    (∃ s i rest, s.cpu.haltBugPending = true ∧ Spec.executes s ∧ decode (Spec.window s) = .ok (i, rest)) :=
  ⟨⟨State.reset, _, _, test_executes _ (by decide), rfl⟩,
   ⟨{ State.reset with cpu.haltBugPending := true }, _, _, rfl, test_executes _ (by decide), rfl⟩⟩

theorem test_witness_IdleAndWake :
    (∃ s : State, s.cpu.locked = true) ∧ (∃ s : State, s.cpu.stopped = true) ∧
    (∃ s : State, s.cpu.halted = true ∧ Spec.nonePending s) ∧
    (∃ s : State, s.cpu.locked = false ∧ s.cpu.stopped = false ∧ s.cpu.halted = true ∧ ¬ Spec.nonePending s) :=
  ⟨⟨{ State.reset with cpu.locked := true }, rfl⟩, ⟨{ State.reset with cpu.stopped := true }, rfl⟩,
   ⟨{ State.reset with cpu.halted := true }, by unfold Spec.nonePending; decide⟩,
   ⟨{ State.reset with cpu.halted := true, irq.ie := 0x01 }, by unfold Spec.nonePending; decide⟩⟩

/-- The lowest and the highest source, and the state after the HALT bug. -/
theorem test_witness_ServiceEntry :
    Spec.services { State.reset with cpu.ime := true, irq.ie := 0x1F, irq.iflag := 0b11111 } 0 ∧
    Spec.services { State.reset with cpu.ime := true, irq.ie := 0x10, irq.iflag := 0b11111 } 4 ∧
    Spec.services { State.reset with
      cpu.ime := true, cpu.haltBugPending := true, cpu.halted := true, irq.ie := 0x01, irq.iflag := 0b00001 } 0 := by
  unfold Spec.services; decide

theorem test_witness_InterruptEnableNext :
    (∃ s t, step s = .next t ∧ Spec.executes s ∧ memRead s s.cpu.pc = 0xF3) ∧
    (∃ s t, step s = .next t ∧ Spec.services s 0) ∧
    (∃ s t, step s = .next t ∧ ¬ Spec.executes s ∧ ∀ k, ¬ Spec.services s k) := by
  refine ⟨?_, ?_, ?_⟩
  · obtain ⟨t, h⟩ := exists_next (r := step (start [0xF3] [] id)) (by decide +kernel)
    exact ⟨_, t, h, test_executes _ (by decide +kernel), by decide +kernel⟩
  · obtain ⟨t, h⟩ := exists_next
      (r := step { State.reset with cpu.ime := true, irq.ie := 0x01 }) (by decide +kernel)
    exact ⟨_, t, h, by unfold Spec.services; decide⟩
  · obtain ⟨t, h⟩ := exists_next (r := step { State.reset with cpu.stopped := true }) (by decide +kernel)
    exact ⟨_, t, h, by simp [Spec.executes], by simp [Spec.services]⟩

theorem test_witness_UnitsLeaveProcessorAlone :
    State.reset.hdma.active = false ∧ State.reset.irq.iflag.getLsbD 0 = true := by decide

theorem test_witness_LockedAndStopped :
    (∃ s : State, s.cpu.locked = true ∨ s.cpu.stopped = true) ∧
    Spec.selectedPress State.reset 0x80 ∧ ¬ Spec.selectedPress State.reset 0x00 ∧
    ¬ Spec.selectedPress { State.reset with joypad.selAction := true } 0x10 := by
  refine ⟨⟨{ State.reset with cpu.locked := true }, .inl rfl⟩, ⟨7, by decide⟩, ?_, ?_⟩ <;>
    (unfold Spec.selectedPress; rintro ⟨b, hb, h⟩; interval_cases b <;> revert h <;> decide)

/-- The carry's two ends. -/
theorem test_witness_FrameEnds : State.reset.carry < 70224 ∧ { State.reset with carry := 70223 }.carry < 70224 := by decide

theorem test_witness_CycleTable :
    (∃ s t, exec (.stop 0x00) s = .next t ∧ s.params.mode = .color ∧ s.color.key1Armed = true) ∧
    (∃ s t, exec (.jrCcE .nz 0x05) s = .next t ∧ Spec.untaken (.jrCcE .nz 0x05) s = true) ∧
    (∃ s t, exec (.jrCcE .z 0x05) s = .next t ∧ Spec.untaken (.jrCcE .z 0x05) s = false) := by
  refine ⟨?_, ?_, ?_⟩
  · obtain ⟨t, h⟩ := exists_next
      (r := exec (.stop 0x00) { State.reset with params.mode := .color, color.key1Armed := true }) (by decide +kernel)
    exact ⟨_, t, h, rfl, rfl⟩
  · obtain ⟨t, h⟩ := exists_next (r := exec (.jrCcE .nz 0x05) State.reset) (by decide +kernel)
    exact ⟨_, t, h, by decide⟩
  · obtain ⟨t, h⟩ := exists_next (r := exec (.jrCcE .z 0x05) State.reset) (by decide +kernel)
    exact ⟨_, t, h, by decide⟩

theorem test_witness_FlagTable :
    (∃ s t, Instr.daa.WellFormed ∧ exec .daa s = .next t ∧ Instr.daa ≠ .popAf) ∧
    (∃ s t, Instr.popAf.WellFormed ∧ exec .popAf s = .next t) :=
  ⟨⟨State.reset, _, by decide, rfl, by decide⟩, ⟨State.reset, _, by decide, rfl⟩⟩

theorem test_witness_RegisterFrame :
    ∃ s t, exec (.incR .b) s = .next t ∧ Reg8.c ∉ Spec.writtenRegs (Spec.form (.incR .b)) ∧
      Spec.writesSp (Spec.form (.incR .b)) = false ∧ Spec.writesPc (Spec.form (.incR .b)) = false ∧
      Instr.incR .b ∉ [Instr.di, .ei, .reti] :=
  ⟨State.reset, _, rfl, by decide, by decide, by decide, by decide⟩

/-- A push to RAM, with the addresses just outside the stored bytes; and a form that stores nothing. -/
theorem test_witness_StoreFrame :
    (∃ s t, CartLegal s.cart ∧ exec (.pushQq .bc) s = .next t ∧
      (∀ a ∈ Spec.storedAt (Spec.form (.pushQq .bc)) s, (storeCell s a).isSome) ∧
      (∀ b ∈ [s.cpu.sp, s.cpu.sp - 3], ∀ a ∈ Spec.storedAt (Spec.form (.pushQq .bc)) s, storeCell s b ≠ storeCell s a)) ∧
    (∃ s t, CartLegal s.cart ∧ exec .cpl s = .next t ∧ Spec.storedAt (Spec.form .cpl) s = []) := by
  refine ⟨?_, ?_⟩
  · obtain ⟨t, h⟩ := exists_next (r := exec (.pushQq .bc) (inRam id)) (by decide +kernel)
    have hs : Spec.storedAt (Spec.form (.pushQq .bc)) (inRam id) = [0xC1FF, 0xC1FE] := by decide +kernel
    refine ⟨inRam id, t, by unfold CartLegal; decide, h, ?_, ?_⟩
    · rw [hs]; simp only [List.forall_mem_cons]; exact ⟨by decide +kernel, by decide +kernel, by simp⟩
    · rw [hs]; simp only [List.forall_mem_cons]
      exact ⟨⟨by decide +kernel, by decide +kernel, by simp⟩, ⟨by decide +kernel, by decide +kernel, by simp⟩, by simp⟩
  · exact ⟨State.reset, _, by unfold CartLegal; decide, rfl, rfl⟩

theorem test_witness_MemoryWrite :
    CartLegal State.reset.cart ∧ storeCell State.reset 0xC000 = some 0x8000 ∧
    storeCell State.reset 0xE000 = some 0x8000 ∧ storeCell State.reset 0xC001 ≠ some 0x8000 ∧
    storeCell State.reset 0xFFFE = some 0x17E ∧ storeCell State.reset 0xFFFF = none ∧
    (memWrite State.reset 0xFFFE 0x5A).mem.read 0x17E ≠ State.reset.mem.read 0x17E := by
  unfold CartLegal; decide +kernel

/-- A machine that meets the invariant and is not the reset one. -/
theorem inRam_inv : Inv (inRam id) := by
  refine ⟨?_, ?_, ?_, ?_, ?_, ?_, ?_, ?_, ?_, ?_, ?_⟩
  · decide
  · unfold CartLegal; decide
  · trivial
  · unfold PpuLegal modeAt; decide
  · decide
  · intro _; unfold MonochromeIdle; decide
  · decide
  · decide
  · decide
  · decide
  · decide

theorem test_witness_StepKeepsInv : ∃ s t, Inv s ∧ step s = .next t := by
  obtain ⟨t, h⟩ := exists_next (r := step (inRam id)) (by decide +kernel)
  exact ⟨_, t, inRam_inv, h⟩

/-- A byte of an image of zeros. -/
theorem imageByte_zeros (n i : Nat) : imageByte (List.replicate n 0x00) i = 0x00 := by
  simp only [imageByte, List.getD_eq_getElem?_getD, List.getElem?_replicate]
  split <;> rfl

/-- An image of 32768 zero bytes is built, with any options. -/
theorem zeros_built (o : BuildOptions) (draws : State) : ∃ s, build (List.replicate 32768 0x00) o draws = .ok s := by
  unfold build makeMapper
  simp only [List.length_replicate, imageByte_zeros]
  cases h : o.bootSkip <;> exact ⟨_, rfl⟩

/-- Both boot paths; a legal sequence of host actions with two settings in a row; and a clock and a cartridge RAM that
may be replaced, at the ends of RTC_SUB's range, and that may not. -/
theorem test_witness_BuiltInv :
    (∃ image o draws s, o.bootSkip = true ∧ build image o draws = .ok s) ∧
    (∃ image o draws s, o.bootSkip = false ∧ Inv draws ∧ build image o draws = .ok s) ∧
    (∃ s t, Inv s ∧ hostRun [.joypad 0x01, .joypad 0x80, .replaceSaveRam []] s = .next t) ∧
    (∃ s : State, Inv s ∧ s.frameCalled = false ∧ ([] : List Byte).length = Spec.ramSize s) ∧
    hostAct (.replaceSaveRam [0x00]) (inRam id) = .refused .hostAction ∧
    hostAct (.replaceSaveRam []) { inRam id with frameCalled := true } = .refused .hostAction := by
  obtain ⟨s, h⟩ := zeros_built BuildOptions.default State.reset
  obtain ⟨s', h'⟩ := zeros_built { BuildOptions.default with bootSkip := false } (inRam id)
  obtain ⟨t, ht⟩ := exists_next (r := hostRun [.joypad 0x01, .joypad 0x80, .replaceSaveRam []] (inRam id))
    (by decide +kernel)
  exact ⟨⟨_, _, _, s, rfl, h⟩, ⟨_, _, _, s', rfl, inRam_inv, h'⟩, ⟨_, t, inRam_inv, ht⟩,
    ⟨_, inRam_inv, by decide, by decide⟩, hostAct_of_not (by decide), hostAct_of_not (by decide)⟩

/-- On the boot-ROM path the low four bits of HDMA_SRC and HDMA_DST are 0 whatever is drawn (R153, R155). -/
theorem test_bootRom_hdma :
    Hdma.bootRom .color ⟨0x123F, 0x1FFF, 0x55, true⟩ = ⟨0x1230, 0x1FF0, 0x55, false⟩ := by decide

theorem test_witness_RomNeverChanges :
    ∃ s t, CartLegal s.cart ∧ step s = .next t ∧ s.bootMapped = false := by
  obtain ⟨t, h⟩ := exists_next (r := step State.reset) (by decide +kernel)
  exact ⟨_, t, by unfold CartLegal; decide, h, rfl⟩

/-- The ends of both regions. -/
theorem test_witness_EchoAndUnusable :
    (∀ a ∈ [(0xE000 : Word), 0xFDFF], 0xE000 ≤ a.toNat ∧ a.toNat ≤ 0xFDFF) ∧
    (∀ a ∈ [(0xFEA0 : Word), 0xFEFF], 0xFEA0 ≤ a.toNat ∧ a.toNat ≤ 0xFEFF) := by simp

/-- Owned and not owned, in both modes, at the ends of the regions. -/
theorem test_witness_Arbiter :
    (∃ s : State, s.params.mode = .color ∧ (s.params.vramBlocking = true ∧ s.ppu.lcdc.getLsbD 7 = true) ∧
      s.ppu.mode = .drawing) ∧
    (∃ s : State, s.params.mode = .color ∧
      ¬ ((s.params.vramBlocking = true ∧ s.ppu.lcdc.getLsbD 7 = true) ∧ s.ppu.mode = .drawing)) ∧
    (∀ a ∈ [(0x8000 : Word), 0x9FFF], 0x8000 ≤ a.toNat ∧ a.toNat ≤ 0x9FFF) ∧
    (∀ a ∈ [(0xFE00 : Word), 0xFE9F], 0xFE00 ≤ a.toNat ∧ a.toNat ≤ 0xFE9F) ∧
    memRead { State.reset with ppu.mode := .drawing } 0x9FFF = 0xFF ∧ memRead State.reset 0x9FFF = 0x00 ∧
    memRead State.reset 0xFE9F = 0xFF ∧ memRead { State.reset with ppu.mode := .hblank } 0xFE9F = 0x00 := by
  refine ⟨⟨{ State.reset with params.mode := .color, ppu.mode := .drawing }, by decide +kernel⟩,
    ⟨{ State.reset with params.mode := .color }, by decide +kernel⟩, by simp, by simp, ?_⟩
  decide +kernel

/-- A machine with variant A and 32 KiB of RAM. -/
def withA : State :=
  { State.reset with
    mapper := .variantA { ramEn := true, bank1 := 1, bank2 := 3, mode := true }
    cart := { romBanks := 8, ramBanks := 4, ramBytes := 32768 } }

/-- A machine with variant B and clock register 8 in the window. -/
def withB : State :=
  { State.reset with
    mapper := .variantB { VariantB.initial with ramEn := true, sel := 0x08 }
    cart := { romBanks := 8, ramBanks := 4, ramBytes := 32768 } }

/-- The clock of variant B is replaced within RTC_SUB's range and before the first frame call only (R330, R335). -/
theorem test_witness_BuiltInv_clock :
    Inv withB ∧ withB.frameCalled = false ∧ clockState withB ≠ none ∧
    (let rtc : Rtc := { VariantB.initial.rtc with sub := 4194303 }
     rtc.sub < 4194304 ∧ hostMay (.replaceClock rtc) withB = true ∧
     hostMay (.replaceClock { rtc with sub := 4194304 }) withB = false ∧
     hostMay (.replaceClock rtc) { withB with frameCalled := true } = false ∧
     hostMay (.replaceClock rtc) withA = false) := by
  refine ⟨⟨?_, ?_, ?_, ?_, ?_, ?_, ?_, ?_, ?_, ?_, ?_⟩, by decide +kernel⟩
  · decide
  · unfold CartLegal; decide
  · exact ⟨by decide, by decide⟩
  · unfold PpuLegal modeAt; decide
  · decide
  · intro _; unfold MonochromeIdle; decide
  · decide
  · decide
  · decide
  · decide
  · decide

/-- A no-mapper image whose RAM_SIZE declares RAM has none for the host (R311; log 21). -/
theorem test_noMapper_has_no_ram :
    saveRam { State.reset with cart := { romBanks := 2, ramBanks := 1, ramBytes := 8192 } } = [] ∧
    (saveRam withA).length = 32768 := by
  refine ⟨rfl, ?_⟩
  simp [saveRam, withA, Mapper.ramBytes]

/-- The windows' ends, where one control register ends and the next begins (R312 to R318). -/
theorem test_witness_MapperVariantA :
    (∃ r, withA.mapper = .variantA r) ∧ withA.bootMapped = false ∧ (∃ n, withA.cart.romBanks = 2 ^ n ∧ n ≤ 5) ∧
    (memWrite withA 0x1FFF 0x0A).mapper = .variantA ⟨true, 1, 3, true⟩ ∧
    (memWrite withA 0x2000 0x20).mapper = .variantA ⟨true, 1, 3, true⟩ ∧
    (memWrite withA 0x3FFF 0x04).mapper = .variantA ⟨true, 4, 3, true⟩ ∧
    (memWrite withA 0x4000 0x05).mapper = .variantA ⟨true, 1, 1, true⟩ ∧
    (memWrite withA 0x7FFF 0x02).mapper = .variantA ⟨true, 1, 3, false⟩ ∧
    storeCell withA 0xBFFF = some (cramBase + 0x7FFF) :=
  ⟨⟨_, rfl⟩, rfl, ⟨3, by decide⟩, by decide +kernel⟩

/-- RAM, a clock register, and nothing in the window (R327). -/
theorem test_witness_MapperVariantB :
    (∃ r, withB.mapper = .variantB r) ∧ withB.bootMapped = false ∧
    memRead withB 0xA000 = 0x00 ∧ memRead (memWrite withB 0xA000 0xFF) 0xBFFF = 0x3F ∧
    memRead (memWrite withB 0x4000 0x0D) 0xA000 = 0xFF ∧
    storeCell (memWrite withB 0x5FFF 0x07) 0xA000 = some (cramBase + 0x6000) ∧
    memRead (memWrite withB 0x1FFF 0x1A) 0xA000 = 0xFF :=
  ⟨⟨_, rfl⟩, rfl, by decide +kernel⟩

/-- A general-purpose transfer, a stop and a start, with sources at the ends of the two ranges; and an HBlank block, the
last and not the last. -/
theorem test_witness_DmaTransfers :
    (∃ s : State, CartLegal s.cart ∧ s.params.mode = .color ∧ s.hdma.active = false ∧
      s.hdma.src.toNat + 16 * ((0x01 : Byte).toNat % 128 + 1) ≤ 0x8000) ∧
    (∃ s : State, CartLegal s.cart ∧ s.params.mode = .color ∧ s.hdma.active = false ∧
      0xA000 ≤ s.hdma.src.toNat ∧ s.hdma.src.toNat + 16 * ((0x00 : Byte).toNat % 128 + 1) ≤ 0xE000) ∧
    (∃ s : State, CartLegal s.cart ∧ s.params.mode = .color ∧ s.hdma.active = true) ∧ (0x80 : Byte).toNat ≥ 128 ∧
    (∃ s : State, CartLegal s.cart ∧ s.hdma.active = true ∧ s.hdma.len.toNat = 0 ∧
      (s.ppu.dot = 251 ∧ s.ppu.line < 144) ∧ s.hdma.src.toNat + 16 ≤ 0x8000) ∧
    (∃ s : State, CartLegal s.cart ∧ s.hdma.active = true ∧ s.hdma.len.toNat ≠ 0 ∧
      (s.ppu.dot = 251 ∧ s.ppu.line < 144) ∧ 0xA000 ≤ s.hdma.src.toNat ∧ s.hdma.src.toNat + 16 ≤ 0xFF00) ∧
    (∃ s : State, CartLegal s.cart ∧ s.hdma.active = true ∧ ¬ (s.ppu.dot = 251 ∧ s.ppu.line < 144)) := by
  refine ⟨⟨{ State.reset with params.mode := .color, hdma.src := 0x7FE0 }, ?_⟩,
    ⟨{ State.reset with params.mode := .color, hdma.src := 0xDFF0 }, ?_⟩,
    ⟨{ State.reset with params.mode := .color, hdma.active := true }, ?_⟩, by decide,
    ⟨{ State.reset with ppu.dot := 251, ppu.line := 143, hdma := ⟨0x7FF0, 0, 0, true⟩ }, ?_⟩,
    ⟨{ State.reset with ppu.dot := 251, hdma := ⟨0xFEF0, 0, 1, true⟩ }, ?_⟩,
    ⟨{ State.reset with ppu.dot := 251, ppu.line := 144, hdma.active := true }, ?_⟩⟩ <;> (unfold CartLegal; decide)

/-- The last HBlank block: sixteen bytes of ROM into VRAM, the registers moved on, and the transfer ended (R224,
R225). -/
theorem test_hblank_block :
    let s : State := { State.reset with
      params.mode := .color, ppu.mode := .drawing, ppu.dot := 251, hdma := ⟨0x0150, 0x1FF0, 0, true⟩
      mem := Memory.writeList [] (romBase + 0x150) [0x5A, 0xA5] }
    let t := hblankHdma s
    t.hdma = ⟨0x0160, 0x0000, 0x7F, false⟩ ∧ t.mem.read (vramCell 0 0x1FF0) = 0x5A ∧
    t.mem.read (vramCell 0 0x1FF1) = 0xA5 := by decide +kernel

/-- The modes, the ends of the unmapped ranges and of the audio window, and palette memory owned and not owned. -/
theorem test_witness_IoRegisters :
    State.reset.params.mode = .monochrome ∧ State.reset.params.audioRead = .reference ∧
    (∀ a ∈ [(0xFF56 : Word), 0xFF67], 0xFF56 ≤ a.toNat ∧ a.toNat ≤ 0xFF67) ∧
    (∀ a ∈ [(0xFF10 : Word), 0xFF3F], 0xFF10 ≤ a.toNat ∧ a.toNat ≤ 0xFF3F) ∧
    (∃ s : State, s.params.mode = .color ∧
      (s.params.vramBlocking = true ∧ s.ppu.lcdc.getLsbD 7 = true ∧ s.ppu.mode = .drawing)) ∧
    (∃ s : State, s.params.mode = .color ∧
      ¬ (s.params.vramBlocking = true ∧ s.ppu.lcdc.getLsbD 7 = true ∧ s.ppu.mode = .drawing) ∧
      s.color.bcps.autoInc = false ∧ s.color.ocps.autoInc = false) :=
  ⟨rfl, rfl, by simp, by simp, ⟨{ State.reset with params.mode := .color, ppu.mode := .drawing }, by decide⟩,
    ⟨{ State.reset with params.mode := .color }, by decide⟩⟩

/-- SERIAL_IN as a function written out: constant 0x00 past the listed bytes (R19). -/
theorem test_serial_in_constant :
    serialIn { State.reset.params with serialIn := .listed [0x5A] 0x00 } 0 = 0x5A ∧
    serialIn { State.reset.params with serialIn := .listed [0x5A] 0x00 } 1000 = 0x00 ∧
    serialIn State.reset.params 0 = 0xFF := by decide

/-- No bits left, some bits left after the advance, and the end of the transfer. -/
theorem test_witness_SerialTransfer :
    State.reset.serial.bits = 0 ∧ min 8 ((0 + 4095) / 512) < 8 ∧ min 8 ((0 + 4096) / 512) = 8 ∧
    ((0x81 : Byte).toNat / 128 = 1 ∧ (0x81 : Byte).toNat % 2 = 1) ∧
    ¬ ((0x80 : Byte).toNat / 128 = 1 ∧ (0x80 : Byte).toNat % 2 = 1) := by decide

theorem test_witness_PictureTiming :
    (PpuLegal Ppu.bootSkip ∧ Ppu.bootSkip.lcdc.getLsbD 7 = true) ∧
    (∃ p, PpuLegal p ∧ p.lcdc.getLsbD 7 = true ∧ p.line = 153 ∧ p.dot = 455) ∧
    (∃ p, PpuLegal p ∧ p.lcdc.getLsbD 7 = false) := by
  refine ⟨?_, ⟨{ Ppu.bootSkip with line := 153, dot := 455, mode := .vblank }, ?_⟩,
    ⟨{ Ppu.bootSkip with lcdc := 0x11, mode := .hblank }, ?_⟩⟩ <;> (unfold PpuLegal modeAt; decide)

/-- A sprite that wins at a column, and a blank line's registers. -/
theorem test_witness_SpriteWinner :
    (∃ s q, winningSprite s 0 (lineSprites s 0) 0 = some q) ∧
    (∃ s : State, s.params.mode = .monochrome ∧ s.ppu.lcdc.getLsbD 0 = false ∧ s.ppu.lcdc.getLsbD 1 = false) := by
  refine ⟨⟨{ State.reset with
      ppu.lcdc := 0x83, mem := Memory.writeList (Memory.writeList [] oamBase [16, 8]) (vramCell 0 0) [0x80, 0x80] },
    ⟨⟨16, 8, 0, 0⟩, 3⟩, by decide +kernel⟩, ⟨{ State.reset with ppu.lcdc := 0x80 }, by decide⟩⟩

theorem test_witness_ClockAdds :
    (∃ r : Rtc, r.live.halt = true) ∧
    (∃ r : Rtc, r.live.halt = false ∧ r.live.s.toNat < 60 ∧ r.live.m.toNat < 60 ∧ r.live.h.toNat < 24) :=
  ⟨⟨{ live := { RtcRegs.initial with halt := true }, latched := RtcRegs.initial, sub := 0 }, rfl⟩,
   ⟨{ live := { RtcRegs.initial with s := 59, m := 59, h := 23, dl := 0xFF, dayHigh := true }
      latched := RtcRegs.initial, sub := 4194303 }, by decide⟩⟩

/-- The rollover of the clock after 512 days (R334). -/
theorem test_clock_rolls_over :
    (rtcAdvance 1 { live := { RtcRegs.initial with s := 59, m := 59, h := 23, dl := 0xFF, dayHigh := true }
                    latched := RtcRegs.initial, sub := 4194303 }).live = { RtcRegs.initial with dayCarry := true } := by
  decide +kernel

/-- An image one byte short of a header is rejected; 32768 zero bytes are not (see the witness of BuiltInv). -/
theorem test_witness_BuilderAccepts : (List.replicate 0x14F (0x00 : Byte)).length < 0x150 := by
  rw [List.length_replicate]; decide

theorem test_witness_BuilderAccepts_built :
    let image := List.replicate 32768 (0x00 : Byte)
    ¬ image.length < 0x150 ∧ (image.getD 0x147 0).toNat = 0x00 ∧ (image.getD 0x148 0).toNat = 0 ∧
    (image.getD 0x149 0).toNat = 0 ∧ image.length = 2 * 2 ^ 0 * 16384 := by
  have h := imageByte_zeros 32768
  simp only [imageByte] at h
  simp only [h, List.length_replicate]
  decide

theorem test_witness_AfterConstruction :
    (∃ image o draws s, build image o draws = .ok s ∧ o.bootSkip = false) ∧
    (∃ image o draws s, build image o draws = .ok s ∧ o.bootSkip = true ∧ o.divInit = 0xABCC ∧
      o.audioRead = .reference) := by
  obtain ⟨s, h⟩ := zeros_built { BuildOptions.default with bootSkip := false } State.reset
  obtain ⟨s', h'⟩ := zeros_built BuildOptions.default State.reset
  exact ⟨⟨_, _, _, s, h, rfl⟩, ⟨_, _, _, s', h', rfl, rfl, rfl⟩⟩

end Sys2Proof.Tests
end

section
/-! SUPPORT. The serial port over any number of cycles in closed form, and what a write of SC does to a transfer
(60_exceptions.md R970; 10_state.md R122, R123). -/

namespace Sys2Proof.Machine

/-! ## A write to an I/O address -/

/-- The addresses 0xFF00 to 0xFF7F select the I/O register file (R203, R214). -/
theorem target_of_io (arb : Bool) (s : State) {a : Word} (lo : 0xFF00 ≤ a.toNat) (hi : a.toNat ≤ 0xFF7F) :
    target arb s a = .io := by
  have hecho : unecho a = a := if_neg (by omega)
  have hboot : bootRange s.params.mode a = false := by
    have h1 : ¬ a.toNat ≤ 0x00FF := by omega
    have h2 : ¬ a.toNat ≤ 0x08FF := by omega
    cases hm : s.params.mode <;> simp [bootRange, h1, h2]
  simp only [target, hecho, hboot, Bool.false_eq_true, and_false, if_false]
  repeat rw [if_neg (by omega)]
  rw [if_pos hi]

theorem memWrite_of_io (s : State) {a : Word} (v : Byte) (lo : 0xFF00 ≤ a.toNat) (hi : a.toNat ≤ 0xFF7F) :
    memWrite s a v = ioWrite s a v := by
  simp only [memWrite, target_of_io true s lo hi]

theorem memWrite_sc (s : State) (v : Byte) : memWrite s 0xFF02 v = writeSc v s := by
  have hreg : ioReg s.params.mode 0xFF02 = .sc := by cases s.params.mode <;> rfl
  rw [memWrite_of_io s v (by decide) (by decide), ioWrite, hreg]

/-! ## A write of SC -/

/-- Both of START and INTERNAL written 1 keep a transfer in progress or start one of eight bits (R970). -/
theorem writeSc_of_started {v : Byte} (s : State) (h7 : v.getLsbD 7 = true) (h0 : v.getLsbD 0 = true) :
    (writeSc v s).serial.bits = (if s.serial.bits = 0 then 8 else s.serial.bits) ∧
    (writeSc v s).serial.clk = if s.serial.bits = 0 then 0 else s.serial.clk := by
  by_cases hb : s.serial.bits = 0 <;> simp [writeSc, h7, h0, hb]

/-- Either of them written 0 stops a transfer (R970). -/
theorem writeSc_of_not_started {v : Byte} (s : State) (h : ¬ (v.getLsbD 7 = true ∧ v.getLsbD 0 = true)) :
    (writeSc v s).serial.bits = 0 := by
  simp only [writeSc, Bool.and_eq_true, if_neg h]

/-- START is bit 7 and INTERNAL bit 0 of a byte read as a number (R123). -/
theorem start_and_internal_iff (v : Byte) :
    (v.toNat / 128 = 1 ∧ v.toNat % 2 = 1) ↔ (v.getLsbD 7 = true ∧ v.getLsbD 0 = true) := by
  have hv := v.isLt
  simp only [BitVec.getLsbD, Nat.testBit_eq_decide_div_mod_eq, decide_eq_true_eq, Nat.pow_zero, Nat.div_one]
  omega

/-! ## The bits shifted in -/

/-- SB after k of the last b bits of a transfer, most significant first. -/
def shiftedByte (sb input : Byte) (b k : Nat) : Byte :=
  BitVec.ofNat 8 (sb.toNat * 2 ^ k + input.toNat % 2 ^ b / 2 ^ (b - k))

theorem shiftedByte_zero (sb input : Byte) (b : Nat) : shiftedByte sb input b 0 = sb := by
  simp [shiftedByte, Nat.div_eq_of_lt (Nat.mod_lt _ (Nat.two_pow_pos b))]

/-- One pass of `serial_advance` shifts one bit in. -/
theorem shiftedByte_one (sb input : Byte) (b : Nat) :
    shiftedByte sb input (b + 1) 1 = (sb <<< 1) ||| bitAt 8 0 (input.getLsbD b) := by
  have hbit : input.toNat % 2 ^ (b + 1) / 2 ^ b = (input.getLsbD b).toNat := by
    rw [pow_succ, Nat.mod_mul_right_div_self, BitVec.getLsbD, Nat.testBit_eq_decide_div_mod_eq]
    rcases Nat.mod_two_eq_zero_or_one (input.toNat / 2 ^ b) with h | h <;> simp [h]
  have hor : ∀ (x : Byte) (q : Bool), BitVec.ofNat 8 (x.toNat * 2 ^ 1 + q.toNat) = (x <<< 1) ||| bitAt 8 0 q := by
    decide +kernel
  rw [shiftedByte, Nat.add_sub_cancel, hbit, hor]

/-- Of the last d + j bits of a number, the first j stand above the others. -/
theorem mod_div_two_pow_split (x d j k : Nat) :
    x % 2 ^ (d + j + k) / 2 ^ d =
      x % 2 ^ (d + j + k) / 2 ^ (d + j) * 2 ^ j + x % 2 ^ (d + j) / 2 ^ d := by
  have hmod : x % 2 ^ (d + j) = x % 2 ^ (d + j + k) % 2 ^ (d + j) :=
    (Nat.mod_mod_of_dvd x (pow_dvd_pow 2 (Nat.le_add_right _ k))).symm
  rw [hmod, pow_add 2 d j, Nat.mod_mul_right_div_self, ← Nat.div_div_eq_div_mul, Nat.div_add_mod']

/-- Shifting k bits and then j more shifts k + j. -/
theorem shiftedByte_add (sb input : Byte) (d j k : Nat) :
    shiftedByte (shiftedByte sb input (d + j + k) k) input (d + j) j = shiftedByte sb input (d + j + k) (k + j) := by
  apply BitVec.eq_of_toNat_eq
  have hd : d + j + k - (k + j) = d := by omega
  simp only [shiftedByte, BitVec.toNat_ofNat, Nat.add_sub_cancel, hd, mod_div_two_pow_split input.toNat d j k]
  rw [Nat.add_mod, Nat.mod_mul_mod, ← Nat.add_mod, pow_add]
  ring_nf

/-! ## The state after some bits -/

theorem serialPeriod_eq (s : State) :
    serialPeriod s = if s.params.mode = .color ∧ s.serial.fast = true then 16 else 512 := by
  unfold serialPeriod; cases s.params.mode <;> simp

theorem serialPeriod_pos (s : State) : 0 < serialPeriod s := by
  rw [serialPeriod_eq]; split <;> decide

theorem serialInput_eq (s : State) : Spec.serialInput s = serialIn s.params s.serial.count := rfl

/-- The state after k bits of a transfer, before its end is looked at. -/
def serialShifted (k : Nat) (s : State) : State :=
  { s with
    serial.sb := shiftedByte s.serial.sb (serialIn s.params s.serial.count) s.serial.bits k
    serial.bits := s.serial.bits - k
    serial.clk := s.serial.clk - k * serialPeriod s }

@[simp] theorem serialPeriod_serialShifted (k : Nat) (s : State) :
    serialPeriod (serialShifted k s) = serialPeriod s := rfl

@[simp] theorem serialShifted_bits (k : Nat) (s : State) :
    (serialShifted k s).serial.bits = s.serial.bits - k := rfl

@[simp] theorem serialShifted_clk (k : Nat) (s : State) :
    (serialShifted k s).serial.clk = s.serial.clk - k * serialPeriod s := rfl

/-- Shifting one bit and then j more shifts j + 1. -/
theorem serialShifted_one_add {s : State} {j : Nat} (hj : j + 1 ≤ s.serial.bits) :
    serialShifted j (serialShifted 1 s) = serialShifted (j + 1) s := by
  obtain ⟨d, hd⟩ : ∃ d, s.serial.bits = d + j + 1 := ⟨s.serial.bits - (j + 1), by omega⟩
  have hsb := shiftedByte_add s.serial.sb (serialIn s.params s.serial.count) d j 1
  have hclk : s.serial.clk - serialPeriod s - j * serialPeriod s = s.serial.clk - (j + 1) * serialPeriod s := by
    rw [Nat.sub_sub, Nat.add_comm (serialPeriod s), ← Nat.succ_mul]
  rw [serialShifted, serialPeriod_serialShifted]
  simp [serialShifted, hd, hclk, hsb, Nat.add_comm 1 j]

/-- The end of a transfer: START clear, the next number, the interrupt requested (R970). -/
def serialEnd (s : State) : State :=
  request .serial { s with serial.start := false, serial.count := s.serial.count + 1, serial.clk := 0 }

/-- The state after k bits of a transfer, which the last one ends. -/
def serialAfter (k : Nat) (s : State) : State :=
  if s.serial.bits = k then serialEnd (serialShifted k s) else serialShifted k s

theorem serialAfter_zero {s : State} (hb : s.serial.bits ≠ 0) : serialAfter 0 s = s := by
  simp [serialAfter, hb, serialShifted, shiftedByte_zero]

/-- One pass of the loop of `serial_advance` shifts one bit (R970). -/
theorem serialShift_eq {s : State} (hb : 0 < s.serial.bits) : serialShift s = serialAfter 1 s := by
  obtain ⟨b, hb⟩ : ∃ b, s.serial.bits = b + 1 := ⟨s.serial.bits - 1, by omega⟩
  simp [serialShift, serialAfter, serialEnd, serialShifted, hb, shiftedByte_one]

/-- After one bit that is not the last, j more bits are j + 1 in all. -/
theorem serialAfter_succ {s : State} {j : Nat} (hj : j + 1 ≤ s.serial.bits) :
    serialAfter j (serialShifted 1 s) = serialAfter (j + 1) s := by
  have hlast : s.serial.bits - 1 = j ↔ s.serial.bits = j + 1 := by omega
  simp only [serialAfter, serialShifted_one_add hj, serialShifted_bits, hlast]

/-- The loop of `serial_advance` shifts a bit for every whole period of its clock, as long as there are bits. -/
theorem serialLoop_eq (n : Nat) {s : State} (hn : s.serial.bits = n) (hpos : 0 < n) :
    serialLoop n s = serialAfter (min n (s.serial.clk / serialPeriod s)) s := by
  induction n generalizing s with
  | zero => omega
  | succ n ih =>
    simp only [serialLoop]
    split
    · next hdue =>
      obtain ⟨hbits, hclk⟩ := hdue
      have hdiv := Nat.div_eq_sub_div (serialPeriod_pos s) hclk
      have hmin : min (n + 1) (s.serial.clk / serialPeriod s) =
          min n ((s.serial.clk - serialPeriod s) / serialPeriod s) + 1 := by omega
      rw [serialShift_eq hbits, hmin]
      rcases Nat.eq_zero_or_pos n with rfl | hn0
      · simp [serialLoop]
      · have hfirst : serialAfter 1 s = serialShifted 1 s := if_neg (by omega)
        have hleft : (serialShifted 1 s).serial.bits = n := by simp [hn]
        rw [hfirst, ih hleft hn0, serialShifted_clk, serialPeriod_serialShifted, Nat.one_mul,
          serialAfter_succ (by omega)]
    · next hdue =>
      have hzero : s.serial.clk / serialPeriod s = 0 := Nat.div_eq_of_lt (by omega)
      rw [hzero, Nat.min_zero, serialAfter_zero (by omega)]

theorem serialAdvance_idle {s : State} (c : Nat) (hb : s.serial.bits = 0) : serialAdvance c s = s := if_pos hb

/-- `serial_advance(c)` adds c to the clock and shifts the bits that are due. -/
theorem serialAdvance_eq {s : State} (c : Nat) (hb : 0 < s.serial.bits) :
    serialAdvance c s = serialAfter (min s.serial.bits ((s.serial.clk + c) / serialPeriod s))
      { s with serial.clk := s.serial.clk + c } :=
  (if_neg (by omega)).trans
    (serialLoop_eq s.serial.bits (s := { s with serial.clk := s.serial.clk + c }) rfl hb)

end Sys2Proof.Machine

open Sys2Proof Sys2Proof.Machine

/-- Settles O55: the loop of `serial_advance` in closed form (`serialLoop_eq`, by induction on the bits left), and
`sc_write` by what is written to START and INTERNAL. -/
theorem serialTransfer : Obligations.SerialTransfer := by
  unfold Obligations.SerialTransfer
  intro s c v
  simp only [← serialPeriod_eq, memWrite_sc, start_and_internal_iff]
  refine ⟨serialAdvance_idle c, fun hb hk => ?_, fun hb hk => ?_, fun hv hb => ?_, fun hv hb => ?_,
    writeSc_of_not_started s⟩
  · rw [serialAdvance_eq c hb, serialAfter, if_neg hk.ne']
    rfl
  · rw [serialAdvance_eq c hb, serialAfter, if_pos hk.symm, hk]
    have hirq : BitVec.twoPow 5 Source.serial.bit = 0b01000 := by decide
    simp [serialEnd, serialShifted, shiftedByte, request, hirq, serialInput_eq]
  · simpa [hb] using writeSc_of_started s hv.1 hv.2
  · simpa [hb] using writeSc_of_started s hv.1 hv.2

end

section
/-! SUPPORT. What executing an instruction can do, said once: an instruction writes the registers R113 names for it,
the flags where R114 gives it any, and memory through the dispatcher; the system instructions change the hidden bits
besides. -/

namespace Sys2Proof.Machine

/-! ## The updates an instruction is made of -/

/-- What an instruction may write of the processor. -/
structure Writes where
  regs : List Reg8
  sp : Bool
  pc : Bool
  flags : Bool

/-- Whether an instruction may write a flag (R114): POP AF takes all four from memory (R556). -/
def writesFlags : Instr → Bool
  | .popQq .af => true
  | .popAf => true
  | i => decide (Spec.flagRow i ≠ ⟨.keep, .keep, .keep, .keep⟩)

/-- What a form may write, by the tables of R113 and R114. -/
def mayWrite (i : Instr) : Writes :=
  { regs := Spec.writtenRegs i, sp := Spec.writesSp i, pc := Spec.writesPc i, flags := writesFlags i }

/-- The state t comes from s by updates that w allows and by writes through the dispatcher. -/
inductive Effect (w : Writes) (s : State) : State → Prop
  | start : Effect w s s
  | reg {t : State} {r : Reg8} (e : Effect w s t) (hr : r ∈ w.regs) (v : Byte) : Effect w s (setR8 r v t)
  | sp {t : State} (e : Effect w s t) (h : w.sp = true) (v : Word) : Effect w s (setSp v t)
  | pc {t : State} (e : Effect w s t) (h : w.pc = true) (v : Word) : Effect w s (setPc v t)
  | flags {t : State} (e : Effect w s t) (h : w.flags = true) (f : Flags) : Effect w s (setFlags f t)
  | store {t : State} (e : Effect w s t) (a : Word) (v : Byte) : Effect w s (memWrite t a v)
  | cycles {t : State} (e : Effect w s t) (n : Nat) : Effect w s { t with acct.cycles := n }

section
variable {w : Writes} {s t : State}

theorem Effect.setA (e : Effect w s t) (h : Reg8.a ∈ w.regs) (v : Byte) : Effect w s (setA v t) := e.reg h v

theorem Effect.setHl (e : Effect w s t) (hh : Reg8.h ∈ w.regs) (hl : Reg8.l ∈ w.regs) (v : Word) :
    Effect w s (setHl v t) := (e.reg hh (hiByte v)).reg hl (loByte v)

theorem Effect.setPair (e : Effect w s t) {dd : Pair} (hr : ∀ r ∈ Spec.halves dd, r ∈ w.regs)
    (hs : w.sp = decide (dd = .sp)) (v : Word) : Effect w s (setPair dd v t) := by
  cases dd with
  | bc => exact (e.reg (hr .b (by decide)) (hiByte v)).reg (hr .c (by decide)) (loByte v)
  | de => exact (e.reg (hr .d (by decide)) (hiByte v)).reg (hr .e (by decide)) (loByte v)
  | hl => exact e.setHl (hr .h (by decide)) (hr .l (by decide)) v
  | sp => exact e.sp hs v

theorem Effect.dropTop (e : Effect w s t) (h : w.sp = true) : Effect w s (dropTop t) := e.sp h _

theorem Effect.push16 (e : Effect w s t) (h : w.sp = true) (v : Word) : Effect w s (push16 v t) :=
  (((e.sp h _).store _ _).sp h _).store _ _

theorem Effect.call (e : Effect w s t) (h : w.sp = true) (h' : w.pc = true) (a : Word) : Effect w s (call a t) :=
  (e.push16 h _).pc h' a

theorem Effect.returnPc (e : Effect w s t) (h : w.sp = true) (h' : w.pc = true) : Effect w s (returnPc t) :=
  (e.dropTop h).pc h' _

theorem Effect.aluA (e : Effect w s t) (h : Reg8.a ∈ w.regs) (hf : w.flags = true) (op : AluOp) (b : Byte) :
    Effect w s (aluA op b t) := (e.setA h _).flags hf _

theorem Effect.shiftA (e : Effect w s t) (h : Reg8.a ∈ w.regs) (hf : w.flags = true) (op : ShiftOp) :
    Effect w s (shiftA op t) := (e.setA h _).flags hf _

theorem Effect.shiftR (e : Effect w s t) {r : Reg8} (h : r ∈ w.regs) (hf : w.flags = true) (op : ShiftOp) :
    Effect w s (shiftR op r t) := (e.reg h _).flags hf _

theorem Effect.shiftHl (e : Effect w s t) (hf : w.flags = true) (op : ShiftOp) : Effect w s (shiftHl op t) :=
  (e.store _ _).flags hf _

/-- POP AF writes A and the flags (R556). -/
theorem Effect.popAf (e : Effect w s t) (h : Reg8.a ∈ w.regs) (hf : w.flags = true) (v : Word) :
    Effect w s (setStackPair .af v t) := (e.setA h (hiByte v)).flags hf (Flags.ofByte (loByte v))

/-- POP into BC, DE or HL writes its two halves (R555). -/
theorem Effect.popQq {qq : StackPair} (e : Effect (mayWrite (.popQq qq)) s t) (v : Word) :
    Effect (mayWrite (.popQq qq)) s (setStackPair qq v t) := by
  cases qq with
  | bc => exact (e.reg (r := .b) (.head _) (hiByte v)).reg (r := .c) (.tail _ (.head _)) (loByte v)
  | de => exact (e.reg (r := .d) (.head _) (hiByte v)).reg (r := .e) (.tail _ (.head _)) (loByte v)
  | hl => exact e.setHl (.head _) (.tail _ (.head _)) v
  | af => exact e.popAf (.head _) rfl v

/-- CP writes the flags alone (R631). -/
theorem Effect.compare (e : Effect w s t) (hf : w.flags = true) (b : Byte) : Effect w s (Machine.aluA .cp b t) :=
  e.flags hf (subFlags (sub8 t.cpu.a b false))

end

/-! ## The instructions -/

/-- What an instruction that executed in s into t did: the updates of its rows of R113 and R114, or the effect of a
system instruction on the hidden bits (46_system.md). -/
inductive Executed (s : State) : Instr → State → Prop
  | row {i : Instr} {t : State} (e : Effect (mayWrite (Spec.form i)) s t) : Executed s i t
  | di : Executed s .di { s with cpu.ime := false, cpu.imeDelay := false, acct.cycles := 4 }
  | ei : Executed s .ei { s with cpu.imeDelay := true, acct.cycles := 4 }
  | reti : Executed s .reti { returnPc s with cpu.ime := true, acct.cycles := 16 }
  | halt : Executed s .halt { halt s with acct.cycles := 4 }
  | speedSwitch (x : Byte) (h : stopSwitches s = true) :
    Executed s (.stop x) { speedSwitch s with acct.cycles := Config.speedSwitchCycles }
  | stop (x : Byte) (h : stopSwitches s = false) : Executed s (.stop x) { stopCpu s with acct.cycles := 4 }
  | lock {i : Instr} (op : Byte) (h : i ∈ [.illegalD3, .illegalDB, .illegalDD, .illegalE3, .illegalE4, .illegalEB,
      .illegalEC, .illegalED, .illegalF4, .illegalFC, .illegalFD]) :
    Executed s i { lock op s with acct.cycles := 4 }

/-- The outcome r of instruction i in s is a next state that i explains. -/
def Runs (s : State) (i : Instr) (r : Result) : Prop := ∃ t, r = .next t ∧ Executed s i t

section
variable {s t u : State} {i f : Instr} {m n : Nat}

theorem Runs.done (hi : Spec.form i = f) (e : Effect (mayWrite f) s t) : Runs s i (done n t) :=
  ⟨_, rfl, .row (hi ▸ e.cycles n)⟩

theorem Runs.ite {c : Prop} [Decidable c] (hi : Spec.form i = f) (e : Effect (mayWrite f) s t)
    (e' : Effect (mayWrite f) s u) : Runs s i (if c then Machine.done m t else Machine.done n u) := by
  split
  · exact .done hi e
  · exact .done hi e'

theorem Runs.lock {op : Byte} (h : i ∈ [.illegalD3, .illegalDB, .illegalDD, .illegalE3, .illegalE4, .illegalEB,
    .illegalEC, .illegalED, .illegalF4, .illegalFC, .illegalFD]) : Runs s i (Machine.done 4 (Machine.lock op s)) :=
  ⟨_, rfl, .lock op h⟩

theorem Runs.cbShift (y : Oct) (operand : Option Reg8) (hi : Spec.form i = decodeShift y operand) :
    Runs s i (execCbShift y operand s) := by
  match y, operand with
  | .o0, some _ | .o1, some _ | .o2, some _ | .o3, some _ | .o4, some _ | .o5, some _ | .o6, some _ | .o7, some _ =>
    exact .done hi (Effect.start.shiftR (.head _) rfl _)
  | .o0, none | .o1, none | .o2, none | .o3, none | .o4, none | .o5, none | .o6, none | .o7, none =>
    exact .done hi (Effect.start.shiftHl rfl _)

/-- PREFIX CB does what the form its second byte selects does (R857). -/
theorem Runs.prefixCb (op2 : Byte) : Runs s (.prefixCb op2) (execPrefixCb op2 s) := by
  have hi : Spec.form (.prefixCb op2) = decodeCb op2 := rfl
  revert hi
  unfold execPrefixCb decodeCb
  generalize (fieldX op2).toNat = x
  generalize reg8OfField (fieldZ op2) = operand
  intro hi
  match x, operand, hi with
  | 0, operand, hi => exact .cbShift _ operand hi
  | 1, some _, hi => exact .done hi (.flags .start rfl _)
  | 1, none, hi => exact .done hi (.flags .start rfl _)
  | 2, some _, hi | _ + 3, some _, hi => exact .done hi (.reg .start (.head _) _)
  | 2, none, hi | _ + 3, none, hi => exact .done hi (.store .start _ _)

end

/-- Every instruction in every state has a next state, and what it did is one of these things. -/
theorem exec_runs (i : Instr) (s : State) : Runs s i (exec i s) := by
  match i with
  | .nop => exact .done rfl .start
  | .ldDdNn dd _ | .incDd dd | .decDd dd =>
    exact .done rfl (Effect.start.setPair (fun _ h => h) (by cases dd <;> rfl) _)
  | .ldAtBcA | .ldAtDeA | .ldAtHlR _ | .ldAtHlN _ | .ldAtNnA _ | .ldhAtCA | .ldhAtNA _ | .resBAtHl _ | .setBAtHl _ =>
    exact .done rfl (.store .start _ _)
  | .ldAtNnSp _ => exact .done rfl (.store (.store .start _ _) _ _)
  | .ldAtHlIncA | .ldAtHlDecA => exact .done rfl (Effect.setHl (.store .start _ _) (.head _) (.tail _ (.head _)) _)
  | .ldAAtHlInc | .ldAAtHlDec =>
    exact .done rfl ((Effect.start.setA (.head _) _).setHl (.tail _ (.head _)) (.tail _ (.tail _ (.head _))) _)
  | .ldRR _ _ | .ldRN _ _ | .ldRAtHl _ | .resBR _ _ | .setBR _ _ => exact .done rfl (.reg .start (.head _) _)
  | .ldAAtBc | .ldAAtDe | .ldAAtNn _ | .ldhAAtC | .ldhAAtN _ => exact .done rfl (Effect.start.setA (.head _) _)
  | .incR _ | .decR _ => exact .done rfl (.flags (.reg .start (.head _) _) rfl _)
  | .incAtHl | .decAtHl => exact .done rfl (.flags (.store .start _ _) rfl _)
  | .addAR _ | .addAAtHl | .addAN _ | .adcAR _ | .adcAAtHl | .adcAN _ | .subR _ | .subAtHl | .subN _ | .sbcAR _
  | .sbcAAtHl | .sbcAN _ | .andR _ | .andAtHl | .andN _ | .xorR _ | .xorAtHl | .xorN _ | .orR _ | .orAtHl | .orN _ =>
    exact .done rfl (Effect.start.aluA (.head _) rfl _ _)
  | .cpR _ | .cpAtHl | .cpN _ => exact .done rfl (Effect.start.compare rfl _)
  | .daa | .cpl => exact .done rfl (.flags (Effect.start.setA (.head _) _) rfl _)
  | .scf | .ccf | .bitBR _ _ | .bitBAtHl _ => exact .done rfl (.flags .start rfl _)
  | .rlca | .rrca | .rla | .rra => exact .done rfl (Effect.start.shiftA (.head _) rfl _)
  | .rlcR _ | .rrcR _ | .rlR _ | .rrR _ | .slaR _ | .sraR _ | .swapR _ | .srlR _ =>
    exact .done rfl (Effect.start.shiftR (.head _) rfl _)
  | .rlcAtHl | .rrcAtHl | .rlAtHl | .rrAtHl | .slaAtHl | .sraAtHl | .swapAtHl | .srlAtHl =>
    exact .done rfl (Effect.start.shiftHl rfl _)
  | .addHlDd _ | .ldHlSpE _ => exact .done rfl (.flags (Effect.start.setHl (.head _) (.tail _ (.head _)) _) rfl _)
  | .addSpE _ => exact .done rfl (.flags (.sp .start rfl _) rfl _)
  | .ldSpHl => exact .done rfl (.sp .start rfl _)
  | .pushQq _ => exact .done rfl (Effect.start.push16 rfl _)
  | .popQq _ => exact .done rfl (Effect.popQq (.dropTop .start rfl) _)
  | .popAf => exact .done rfl (Effect.popAf (.dropTop .start rfl) (.head _) rfl _)
  | .jpNn _ | .jpHl | .jrE _ => exact .done rfl (.pc .start rfl _)
  | .jpCcNn _ _ | .jrCcE _ _ => exact .ite rfl (.pc .start rfl _) .start
  | .callNn _ | .rstT _ => exact .done rfl (Effect.start.call rfl rfl _)
  | .callCcNn _ _ => exact .ite rfl (Effect.start.call rfl rfl _) .start
  | .ret => exact .done rfl (Effect.start.returnPc rfl rfl)
  | .retCc _ => exact .ite rfl (Effect.start.returnPc rfl rfl) .start
  | .reti => exact ⟨_, rfl, .reti⟩
  | .di => exact ⟨_, rfl, .di⟩
  | .ei => exact ⟨_, rfl, .ei⟩
  | .halt => exact ⟨_, rfl, .halt⟩
  | .stop x =>
    cases h : stopSwitches s with
    | true => exact ⟨_, if_pos h, .speedSwitch x h⟩
    | false => exact ⟨_, if_neg (by simp [h]), .stop x h⟩
  | .illegalD3 | .illegalDB | .illegalDD | .illegalE3 | .illegalE4 | .illegalEB | .illegalEC | .illegalED | .illegalF4
  | .illegalFC | .illegalFD => exact .lock (by decide)
  | .prefixCb op2 => exact .prefixCb op2

/-- The inversion of `exec`. -/
theorem executed_of_exec {i : Instr} {s t : State} (h : exec i s = .next t) : Executed s i t := by
  obtain ⟨u, hu, e⟩ := exec_runs i s
  rw [h] at hu
  cases hu
  exact e

/-! ## What every effect keeps -/

/-- The hidden state of the processor (R106 to R111) is the same. -/
structure SameHidden (x y : Cpu) : Prop where
  ime : y.ime = x.ime
  imeDelay : y.imeDelay = x.imeDelay
  halted : y.halted = x.halted
  haltBugPending : y.haltBugPending = x.haltBugPending
  stopped : y.stopped = x.stopped
  doubleSpeed : y.doubleSpeed = x.doubleSpeed
  locked : y.locked = x.locked
  lockOpcode : y.lockOpcode = x.lockOpcode

theorem SameHidden.refl (x : Cpu) : SameHidden x x := ⟨rfl, rfl, rfl, rfl, rfl, rfl, rfl, rfl⟩

theorem SameHidden.setR8 {x y : Cpu} (h : SameHidden x y) (r : Reg8) (v : Byte) : SameHidden x (y.setR8 r v) := by
  cases r <;> exact ⟨h.1, h.2, h.3, h.4, h.5, h.6, h.7, h.8⟩

section
variable {w : Writes} {s t : State}

theorem Effect.hidden (e : Effect w s t) : SameHidden s.cpu t.cpu := by
  induction e with
  | start => exact .refl _
  | reg _ _ v ih => exact ih.setR8 _ v
  | sp _ _ _ ih | pc _ _ _ ih | flags _ _ _ ih => exact ⟨ih.1, ih.2, ih.3, ih.4, ih.5, ih.6, ih.7, ih.8⟩
  | store _ a v ih => rwa [memWrite_cpu]
  | cycles _ _ ih => exact ih

theorem Effect.params (e : Effect w s t) : t.params = s.params := by
  induction e with
  | start => rfl
  | store _ a v ih => rwa [memWrite_params]
  | reg _ _ _ ih | sp _ _ _ ih | pc _ _ _ ih | flags _ _ _ ih | cycles _ _ ih => exact ih

theorem Effect.inv (e : Effect w s t) (h : Inv s) : Inv t := by
  induction e with
  | start => exact h
  | reg _ _ v ih => exact ih.setR8 _ v
  | sp _ _ v ih => exact ih.setSp v
  | pc _ _ v ih => exact ih.setPc v
  | flags _ _ f ih => exact ih.setFlags f
  | store _ a v ih => exact ih.memWrite a v
  | cycles _ _ ih => exact ih.acct _

end

/-! ## What a step can do -/

/-- The processor's part of a step from s into u, before the units advance (R860). -/
inductive CpuStepped (s : State) : State → Prop
  | idle (n : Nat) (h : stepKind s ≠ .service ∧ stepKind s ≠ .execute) :
    CpuStepped s { beginStep s with acct.cycles := n }
  | service (k : Source) (h : stepKind s = .service) (hk : firstPending s = some k) :
    CpuStepped s { enterInterrupt k (wake (beginStep s)) with acct.cycles := Config.serviceCycles }
  | execute {u : State} (h : stepKind s = .execute)
      (he : exec (fetched (wake (beginStep s)))
        (afterFetch (fetched (wake (beginStep s))) (wake (beginStep s))) = .next u) :
    CpuStepped s (eiDelay s.cpu.imeDelay u)

/-- A pending interrupt has a source. -/
theorem pending_eq_zero_of_firstPending {s : State} (h : firstPending s = none) : pending s = 0 := by
  simp only [firstPending, List.find?_eq_none, List.mem_cons, List.not_mem_nil, or_false, forall_eq_or_imp,
    forall_eq] at h
  apply BitVec.eq_of_getLsbD_eq
  intro i hi
  have : i = 0 ∨ i = 1 ∨ i = 2 ∨ i = 3 ∨ i = 4 := by omega
  obtain ⟨h0, h1, h2, h3, h4⟩ := h
  rcases this with rfl | rfl | rfl | rfl | rfl
  · exact eq_false_of_ne_true h0
  · exact eq_false_of_ne_true h1
  · exact eq_false_of_ne_true h2
  · exact eq_false_of_ne_true h3
  · exact eq_false_of_ne_true h4

theorem stepKind_beginStep (s : State) : stepKind (beginStep s) = stepKind s := rfl

theorem firstPending_wake_beginStep (s : State) : firstPending (wake (beginStep s)) = firstPending s := rfl

theorem stepKind_eq_service_iff (s : State) : stepKind s = .service ↔
    s.cpu.locked = false ∧ s.cpu.stopped = false ∧ s.cpu.ime = true ∧ pending s ≠ 0 := by
  unfold stepKind
  split_ifs <;> simp_all

theorem stepKind_eq_execute_iff (s : State) : stepKind s = .execute ↔
    s.cpu.locked = false ∧ s.cpu.stopped = false ∧ (s.cpu.halted = true → pending s ≠ 0) ∧
      (s.cpu.ime = true → pending s = 0) := by
  unfold stepKind
  split_ifs <;> simp_all

/-- Every step is a step of the processor and the advance of the units (R234, R860). -/
theorem stepped_of_step {s t : State} (h : step s = .next t) :
    ∃ u, CpuStepped s u ∧ t = advanceUnits s.cpu.doubleSpeed u := by
  suffices hc : ∃ u, cpuStep s = .next u ∧ CpuStepped s u by
    obtain ⟨u, hu, hs⟩ := hc
    rw [step, hu] at h
    cases h
    exact ⟨u, hs, rfl⟩
  cases hk : stepKind s with
  | locked => exact ⟨_, by simp [cpuStep, stepKind_beginStep, hk], .idle Config.lockIdleCycles (by simp [hk])⟩
  | stopped => exact ⟨_, by simp [cpuStep, stepKind_beginStep, hk], .idle Config.stopIdleCycles (by simp [hk])⟩
  | haltIdle => exact ⟨_, by simp [cpuStep, stepKind_beginStep, hk], .idle Config.haltIdleCycles (by simp [hk])⟩
  | service =>
    cases hp : firstPending s with
    | none => exact absurd (pending_eq_zero_of_firstPending hp) ((stepKind_eq_service_iff s).mp hk).2.2.2
    | some k =>
      exact ⟨_, by simp [cpuStep, stepKind_beginStep, hk, Machine.service, firstPending_wake_beginStep, hp],
        .service k hk hp⟩
  | execute =>
    obtain ⟨u, hu, -⟩ := exec_runs (fetched (wake (beginStep s)))
      (afterFetch (fetched (wake (beginStep s))) (wake (beginStep s)))
    exact ⟨_, by simp [cpuStep, stepKind_beginStep, hk, runInstr, hu, finishInstr], .execute hk hu⟩

end Sys2Proof.Machine
end

section
/-! SUPPORT. The invariant of Safety.lean under an instruction, the entry into an interrupt and a step. -/

namespace Sys2Proof.Machine

/-- Wait conditions only end: HALTED, HALT_BUG_PENDING or STOPPED cleared. -/
theorem Inv.clearWaits {s : State} (h : Inv s) {x : Cpu} (hl : x.locked = s.cpu.locked)
    (ht : x.stopped.toNat ≤ s.cpu.stopped.toNat) (hh : x.halted.toNat ≤ s.cpu.halted.toNat)
    (hb : x.haltBugPending = false ∨ x.haltBugPending = s.cpu.haltBugPending)
    (hd : x.doubleSpeed = s.cpu.doubleSpeed) : Inv { s with cpu := x } := by
  have hw := h.wait
  refine h.setCpu ?_ ?_ ?_
  · rcases hb with hb | hb <;> simp only [waitCount, hl, hb, Bool.toNat_false] at hw ⊢ <;> omega
  · rcases hb with hb | hb <;> rw [hb]
    · nofun
    · exact h.haltBug
  · rw [hd]; exact fun m => (h.monochrome m).1

theorem Inv.beginStep {s : State} (h : Inv s) : Inv (beginStep s) := h.acct _

theorem Inv.wake {s : State} (h : Inv s) : Inv (wake s) :=
  h.clearWaits rfl le_rfl (Nat.zero_le _) (.inr rfl) rfl

theorem Inv.afterFetch {s : State} (h : Inv s) (i : Instr) : Inv (afterFetch i s) :=
  h.clearWaits rfl le_rfl le_rfl (.inl rfl) rfl

theorem Inv.eiDelay {s : State} (h : Inv s) (delay : Bool) : Inv (eiDelay delay s) := by
  rw [eiDelay_eq]
  exact h.setRegs (by simp) (by simp) (by simp) (by simp) (by simp)

theorem Inv.enterInterrupt {s : State} (h : Inv s) (k : Source) : Inv (enterInterrupt k s) :=
  (Inv.push16 (Inv.clearWaits (s := clearPending k s)
    (x := { s.cpu with ime := false, imeDelay := false, haltBugPending := false })
    (h.irq _) rfl le_rfl le_rfl (.inl rfl) rfl) _).setPc _

/-- One wait condition begins where none holds. -/
theorem Inv.beginWait {s : State} (h : Inv s) {x : Cpu} (hw : waitCount x = 1)
    (hb : x.haltBugPending = true → s.params.haltBug = true) (hd : x.doubleSpeed = s.cpu.doubleSpeed) :
    Inv { s with cpu := x } :=
  h.setCpu hw.le hb (by rw [hd]; exact fun m => (h.monochrome m).1)

theorem Inv.halt {s : State} (h : Inv s) (hw : waitCount s.cpu = 0) : Inv (halt s) := by
  simp only [waitCount, Nat.add_eq_zero_iff, Bool.toNat_eq_zero] at hw
  obtain ⟨⟨⟨hl, hs⟩, hh⟩, hb⟩ := hw
  unfold Machine.halt
  split
  · next hc =>
    simp only [Bool.and_eq_true] at hc
    exact h.beginWait (by simp [waitCount, hl, hs, hh]) (fun _ => hc.1.1) rfl
  · exact h.beginWait (by simp [waitCount, hl, hs, hb]) (by simp [hb]) rfl

theorem Inv.lock {s : State} (h : Inv s) (hw : waitCount s.cpu = 0) (op : Byte) : Inv (lock op s) := by
  simp only [waitCount, Nat.add_eq_zero_iff, Bool.toNat_eq_zero] at hw
  obtain ⟨⟨⟨hl, hs⟩, hh⟩, hb⟩ := hw
  exact h.beginWait (by simp [waitCount, hs, hh, hb]) (by simp [hb]) rfl

theorem Inv.stopCpu {s : State} (h : Inv s) (hw : waitCount s.cpu = 0) : Inv (stopCpu s) := by
  simp only [waitCount, Nat.add_eq_zero_iff, Bool.toNat_eq_zero] at hw
  obtain ⟨⟨⟨hl, hs⟩, hh⟩, hb⟩ := hw
  have hc : (Machine.resetDivider s).cpu = s.cpu := (sameCore_resetDivider s).cpu
  exact h.resetDivider.beginWait (by simp [waitCount, hc, hl, hh, hb]) (by simp [hc, hb]) rfl

/-- The speed is switched in color mode only (R853). -/
theorem Inv.speedSwitch {s : State} (h : Inv s) (hs : stopSwitches s = true) : Inv (speedSwitch s) := by
  simp only [stopSwitches, Bool.and_eq_true, decide_eq_true_eq] at hs
  have hm : s.params.mode ≠ .monochrome := by simp [hs.1]
  exact Inv.resetDivider (Inv.setColor (h.setCpu (x := { s.cpu with doubleSpeed := !s.cpu.doubleSpeed }) h.wait
    h.haltBug fun m => absurd m hm) _ hm)

/-- An instruction keeps the invariant where no wait condition holds, as where a step executes one. -/
theorem Executed.inv {s t : State} {i : Instr} (e : Executed s i t) (h : Inv s) (hw : waitCount s.cpu = 0) : Inv t := by
  cases e with
  | row e => exact e.inv h
  | di => exact Inv.acct (h.setRegs (x := { s.cpu with ime := false, imeDelay := false }) rfl rfl rfl rfl rfl) _
  | ei => exact Inv.acct (h.setRegs (x := { s.cpu with imeDelay := true }) rfl rfl rfl rfl rfl) _
  | reti =>
    exact Inv.acct (Inv.setRegs (x := { (returnPc s).cpu with ime := true }) (h.dropTop.setPc _) rfl rfl rfl rfl rfl) _
  | halt => exact (h.halt hw).acct _
  | speedSwitch _ hs => exact (h.speedSwitch hs).acct _
  | stop _ _ => exact (h.stopCpu hw).acct _
  | lock op _ => exact (h.lock hw op).acct _

theorem CpuStepped.inv {s u : State} (e : CpuStepped s u) (h : Inv s) : Inv u := by
  cases e with
  | idle n _ => exact h.beginStep.acct _
  | service k _ _ => exact (h.beginStep.wake.enterInterrupt k).acct _
  | execute hk he =>
    obtain ⟨hl, hs, -⟩ := (stepKind_eq_execute_iff s).mp hk
    refine ((executed_of_exec he).inv (h.beginStep.wake.afterFetch _) ?_).eiDelay _
    simp [waitCount, hl, hs]

end Sys2Proof.Machine

open Sys2Proof Sys2Proof.Machine

/-- Settles O45: the processor's part of a step keeps the invariant (`CpuStepped.inv`, by what a step and an
instruction can do), and so does the advance of the units (`Inv.advanceUnits`). -/
theorem stepKeepsInv : Obligations.StepKeepsInv := by
  intro s t h hstep
  obtain ⟨u, hu, rfl⟩ := stepped_of_step hstep
  exact (hu.inv h).advanceUnits _

end

section
/-! SUPPORT. The registers, the hidden bits and the flags after an instruction, from what it may write. -/

namespace Sys2Proof.Machine

@[simp] theorem resetDivider_cpu (s : State) : (resetDivider s).cpu = s.cpu := (sameCore_resetDivider s).cpu

/-! ## Registers and hidden bits (R113) -/

section
variable {w : Writes} {s t : State}

theorem Effect.getR8 (e : Effect w s t) {r : Reg8} (hr : r ∉ w.regs) : t.cpu.getR8 r = s.cpu.getR8 r := by
  induction e with
  | start => rfl
  | @reg t q e hq v ih =>
    have hne : r ≠ q := fun h => hr (h ▸ hq)
    simpa [hne] using ih
  | sp _ _ _ ih | pc _ _ _ ih | flags _ _ _ ih => simpa using ih
  | store _ a v ih => simpa using ih
  | cycles _ _ ih => exact ih

theorem Effect.sp_eq (e : Effect w s t) (h : w.sp = false) : t.cpu.sp = s.cpu.sp := by
  induction e with
  | sp _ h' _ _ => exact absurd (h.symm.trans h') (by decide)
  | start => rfl
  | reg _ _ _ ih | store _ _ _ ih => simpa using ih
  | pc _ _ _ ih | flags _ _ _ ih | cycles _ _ ih => exact ih

theorem Effect.pc_eq (e : Effect w s t) (h : w.pc = false) : t.cpu.pc = s.cpu.pc := by
  induction e with
  | pc _ h' _ _ => exact absurd (h.symm.trans h') (by decide)
  | start => rfl
  | reg _ _ _ ih | store _ _ _ ih => simpa using ih
  | sp _ _ _ ih | flags _ _ _ ih | cycles _ _ ih => exact ih

theorem Effect.flags_eq (e : Effect w s t) (h : w.flags = false) : t.cpu.f = s.cpu.f := by
  induction e with
  | flags _ h' _ _ => exact absurd (h.symm.trans h') (by decide)
  | start => rfl
  | reg _ _ _ ih | store _ _ _ ih => simpa using ih
  | sp _ _ _ ih | pc _ _ _ ih | cycles _ _ ih => exact ih

end

@[simp] theorem lock_cpu (op : Byte) (s : State) :
    (lock op s).cpu = { s.cpu with locked := true, lockOpcode := op } := rfl

@[simp] theorem returnPc_cpu (s : State) :
    (returnPc s).cpu = { s.cpu with pc := stackTop s, sp := s.cpu.sp + 2 } := rfl

@[simp] theorem speedSwitch_cpu (s : State) :
    (speedSwitch s).cpu = { s.cpu with doubleSpeed := !s.cpu.doubleSpeed } := by simp [speedSwitch]

@[simp] theorem stopCpu_cpu (s : State) : (stopCpu s).cpu = { s.cpu with stopped := true } := by simp [stopCpu]

/-- HALT changes HALTED or HALT_BUG_PENDING (R852). -/
theorem halt_cpu (s : State) :
    (halt s).cpu = { s.cpu with halted := (halt s).cpu.halted, haltBugPending := (halt s).cpu.haltBugPending } := by
  unfold halt; split <;> rfl

/-- No register changes but those R113 names for the form. -/
theorem Executed.getR8 {s t : State} {i : Instr} (e : Executed s i t) {r : Reg8}
    (hr : r ∉ Spec.writtenRegs (Spec.form i)) : t.cpu.getR8 r = s.cpu.getR8 r := by
  cases e with
  | row e => exact e.getR8 hr
  | halt => simp only; rw [halt_cpu s, Cpu.getR8_mk]
  | di | ei | lock | reti | speedSwitch | stop => simp

theorem Executed.sp_eq {s t : State} {i : Instr} (e : Executed s i t) (h : Spec.writesSp (Spec.form i) = false) :
    t.cpu.sp = s.cpu.sp := by
  cases e with
  | row e => exact e.sp_eq h
  | halt => rw [halt_cpu s]
  | di | ei | lock => rfl
  | reti => exact absurd h (by decide)
  | speedSwitch | stop => simp

theorem Executed.pc_eq {s t : State} {i : Instr} (e : Executed s i t) (h : Spec.writesPc (Spec.form i) = false) :
    t.cpu.pc = s.cpu.pc := by
  cases e with
  | row e => exact e.pc_eq h
  | halt => rw [halt_cpu s]
  | di | ei | lock => rfl
  | reti => exact absurd h (by decide)
  | speedSwitch | stop => simp

/-- IME and IME_DELAY change in DI, EI and RETI only (R854, R855, R809). -/
theorem Executed.ime_eq {s t : State} {i : Instr} (e : Executed s i t) (h : i ∉ [.di, .ei, .reti]) :
    t.cpu.ime = s.cpu.ime ∧ t.cpu.imeDelay = s.cpu.imeDelay := by
  cases e with
  | row e => exact ⟨e.hidden.ime, e.hidden.imeDelay⟩
  | halt => rw [halt_cpu s]; exact ⟨rfl, rfl⟩
  | lock => exact ⟨rfl, rfl⟩
  | di | ei | reti => exact absurd (by decide) h
  | speedSwitch | stop => simp

theorem Executed.halted_eq {s t : State} {i : Instr} (e : Executed s i t) (h : i ≠ .halt) :
    t.cpu.halted = s.cpu.halted ∧ t.cpu.haltBugPending = s.cpu.haltBugPending := by
  cases e with
  | row e => exact ⟨e.hidden.halted, e.hidden.haltBugPending⟩
  | halt => exact absurd rfl h
  | di | ei | lock | reti => exact ⟨rfl, rfl⟩
  | speedSwitch | stop => simp

theorem Executed.stopped_eq {s t : State} {i : Instr} (e : Executed s i t) (h : ∀ x, i ≠ .stop x) :
    t.cpu.stopped = s.cpu.stopped ∧ t.cpu.doubleSpeed = s.cpu.doubleSpeed := by
  cases e with
  | row e => exact ⟨e.hidden.stopped, e.hidden.doubleSpeed⟩
  | halt => rw [halt_cpu s]; exact ⟨rfl, rfl⟩
  | di | ei | lock | reti => exact ⟨rfl, rfl⟩
  | speedSwitch x | stop x => exact absurd rfl (h x)

/-- Only an unused opcode locks (R858). -/
theorem Executed.locked_eq {s t : State} {i : Instr} (e : Executed s i t)
    (h : i ∉ [.illegalD3, .illegalDB, .illegalDD, .illegalE3, .illegalE4, .illegalEB, .illegalEC, .illegalED,
      .illegalF4, .illegalFC, .illegalFD]) :
    t.cpu.locked = s.cpu.locked ∧ t.cpu.lockOpcode = s.cpu.lockOpcode := by
  cases e with
  | row e => exact ⟨e.hidden.locked, e.hidden.lockOpcode⟩
  | halt => rw [halt_cpu s]; exact ⟨rfl, rfl⟩
  | di | ei | reti => exact ⟨rfl, rfl⟩
  | lock _ h' => exact absurd h' h
  | speedSwitch | stop => simp

/-! ## Flags (R114) -/

/-- A row of R114 allows the flags g after f. -/
def Allows (row : Spec.FlagRow) (f g : Flags) : Prop :=
  row.z.allows f.z g.z ∧ row.n.allows f.n g.n ∧ row.h.allows f.h g.h ∧ row.c.allows f.c g.c

/-- The outcome r in s is a next state whose flags the row allows. -/
def FlagsBy (row : Spec.FlagRow) (s : State) (r : Result) : Prop := ∃ t, r = .next t ∧ Allows row s.cpu.f t.cpu.f

theorem FlagsBy.setFlags {row : Spec.FlagRow} {s t : State} {f : Flags} {n : Nat} (h : Allows row s.cpu.f f) :
    FlagsBy row s (done n (setFlags f t)) := ⟨_, rfl, h⟩

theorem Executed.flags_eq {s t : State} {i : Instr} (e : Executed s i t) (h : writesFlags (Spec.form i) = false) :
    t.cpu.f = s.cpu.f := by
  cases e with
  | row e => exact e.flags_eq h
  | halt => rw [halt_cpu s]
  | di | ei | lock | reti => rfl
  | speedSwitch | stop => simp

/-- A well-formed instruction is its own form. -/
theorem form_of_wellFormed {i : Instr} (h : i.WellFormed) : Spec.form i = i := by
  cases i with
  | prefixCb _ => exact absurd h (by simp [Instr.WellFormed, Instr.wellFormed])
  | _ => rfl

theorem flagRow_of_not_writesFlags {i : Instr} (h : writesFlags i = false) :
    Spec.flagRow i = ⟨.keep, .keep, .keep, .keep⟩ := by
  unfold writesFlags at h
  split at h
  · exact absurd h (by decide)
  · exact absurd h (by decide)
  · simpa using h

/-- DAA keeps Nf and clears Hf (R650). -/
theorem daaResult_flags (a : Byte) (f : Flags) : (daaResult a f).2.n = f.n ∧ (daaResult a f).2.h = false := by
  unfold daaResult; split <;> exact ⟨rfl, rfl⟩

/-- The forms that write a flag write each as their row says. -/
theorem exec_flagsBy {i : Instr} (s : State) (hi : i.WellFormed) (hp : i ≠ .popAf) :
    FlagsBy (Spec.flagRow i) s (exec i s) := by
  cases hw : writesFlags i with
  | false =>
    obtain ⟨t, ht, e⟩ := exec_runs i s
    refine ⟨t, ht, ?_⟩
    rw [flagRow_of_not_writesFlags hw, e.flags_eq (by rw [form_of_wellFormed hi, hw])]
    exact ⟨rfl, rfl, rfl, rfl⟩
  | true =>
    cases i with
    | addAR _ | addAAtHl | addAN _ | adcAR _ | adcAAtHl | adcAN _ | subR _ | subAtHl | subN _ | sbcAR _
    | sbcAAtHl | sbcAN _ | cpR _ | cpAtHl | cpN _ => exact .setFlags ⟨trivial, rfl, trivial, trivial⟩
    | andR _ | andAtHl | andN _ | xorR _ | xorAtHl | xorN _ | orR _ | orAtHl | orN _ | swapR _ | swapAtHl =>
      exact .setFlags ⟨trivial, rfl, rfl, rfl⟩
    | incR _ | incAtHl | decR _ | decAtHl => exact .setFlags ⟨trivial, rfl, trivial, rfl⟩
    | daa => exact .setFlags ⟨trivial, (daaResult_flags _ _).1, (daaResult_flags _ _).2, trivial⟩
    | cpl | scf => exact .setFlags ⟨rfl, rfl, rfl, rfl⟩
    | ccf | rlca | rrca | rla | rra => exact .setFlags ⟨rfl, rfl, rfl, trivial⟩
    | addHlDd _ | addSpE _ | ldHlSpE _ => exact .setFlags ⟨rfl, rfl, trivial, trivial⟩
    | rlcR _ | rlcAtHl | rrcR _ | rrcAtHl | rlR _ | rlAtHl | rrR _ | rrAtHl | slaR _ | slaAtHl | sraR _ | sraAtHl
    | srlR _ | srlAtHl => exact .setFlags ⟨trivial, rfl, rfl, trivial⟩
    | bitBR _ _ | bitBAtHl _ => exact .setFlags ⟨trivial, rfl, rfl, rfl⟩
    | popAf => exact absurd rfl hp
    | popQq qq =>
      cases qq with
      | af => exact absurd hi (by decide)
      | _ => exact absurd hw (by decide)
    | _ => nomatch hw

/-- POP AF takes the flags from the upper half of the byte at SP (R556). -/
theorem execPopAf_flags (s : State) : ∃ t, exec .popAf s = .next t ∧ t.cpu.f = Flags.ofByte (memRead s s.cpu.sp) :=
  ⟨_, rfl, by simp [setStackPair, Cpu.setStackPair, Cpu.setAf, stackTop]⟩

theorem toNat_toByte_ofByte (v : Byte) : (Flags.ofByte v).toByte.toNat = v.toNat / 16 * 16 := by
  revert v; decide +kernel

end Sys2Proof.Machine

open Sys2Proof Sys2Proof.Machine

/-- Settles O41: an instruction does what its row of R113 allows or what a system instruction does to the hidden bits
(`executed_of_exec`). -/
theorem registerFrame : Obligations.RegisterFrame := by
  intro i s t h
  have e := executed_of_exec h
  exact ⟨fun _ => e.getR8, e.sp_eq, e.pc_eq, e.ime_eq, e.halted_eq, e.stopped_eq, e.locked_eq⟩

/-- Settles O40: by the flags each form writes (`exec_flagsBy`), and those POP AF reads (`execPopAf_flags`). -/
theorem flagTable : Obligations.FlagTable := by
  intro i s t hi h
  refine ⟨fun hp => ?_, fun hp => ?_⟩
  · obtain ⟨u, hu, hf⟩ := exec_flagsBy s hi hp
    cases h.symm.trans hu
    rwa [form_of_wellFormed hi]
  · subst hp
    obtain ⟨u, hu, hf⟩ := execPopAf_flags s
    cases h.symm.trans hu
    rw [hf, toNat_toByte_ofByte]

end

section
/-! SUPPORT. IME and IME_DELAY over a step (46_system.md R854 to R856; 45_control.md R809; 60_exceptions.md R910). -/

namespace Sys2Proof.Machine

/-! ## Which opcodes write IME or IME_DELAY -/

/-- The opcode of an instruction that writes IME or IME_DELAY. -/
def imeOpcode : Instr → Option Byte
  | .di => some 0xF3
  | .ei => some 0xFB
  | .reti => some 0xD9
  | _ => none

theorem imeOpcode_decodeX0 (op b1 b2 : Byte) : imeOpcode (decodeX0 op b1 b2) = none := by
  unfold decodeX0
  simp only
  repeat' split
  all_goals rfl

/-- The bytes after the opcode are operands only. -/
theorem imeOpcode_decodeX3 (op b1 b2 : Byte) : imeOpcode (decodeX3 op b1 b2) = imeOpcode (decodeX3 op 0 0) := by
  unfold decodeX3
  cases oct (fieldZ op) <;> cases oct (fieldY op) <;> rfl

theorem imeOpcode_decodeCb (op2 : Byte) : imeOpcode (decodeCb op2) = none := by
  revert op2; decide +kernel

theorem imeOpcode_decodeFirst (op b1 b2 : Byte) :
    imeOpcode (decodeFirst op b1 b2) = imeOpcode (decodeFirst op 0 0) := by
  unfold decodeFirst
  split
  · simp only [imeOpcode_decodeX0]
  · rfl
  · rfl
  · exact imeOpcode_decodeX3 op b1 b2

/-- DI, EI and RETI are the opcodes 0xF3, 0xFB and 0xD9 (R430). -/
theorem imeOpcode_decode3 (op b1 b2 : Byte) :
    imeOpcode (decode3 op b1 b2) = if op ∈ [0xF3, 0xFB, 0xD9] then some op else none := by
  have hfirst : imeOpcode (decode3 op b1 b2) = imeOpcode (decodeFirst op b1 b2) := by
    unfold decode3
    split
    · next h => rw [h, imeOpcode_decodeCb]; rfl
    · rfl
  have h0 : ∀ op, imeOpcode (decodeFirst op 0 0) = if op ∈ [0xF3, 0xFB, 0xD9] then some op else none := by
    decide +kernel
  rw [hfirst, imeOpcode_decodeFirst, h0]

/-- The opcode a step fetches is the byte at PC, whether or not the HALT bug holds PC (R859). -/
theorem imeOpcode_fetched (s : State) :
    imeOpcode (fetched (wake (beginStep s))) =
      if memRead s s.cpu.pc ∈ [0xF3, 0xFB, 0xD9] then some (memRead s s.cpu.pc) else none := by
  have hread : ∀ a, memRead (wake (beginStep s)) a = memRead s a := fun _ => rfl
  unfold fetched fetchWindow
  simp only [hread, wake_cpu, beginStep_frame]
  split <;> exact imeOpcode_decode3 _ _ _

theorem imeOpcode_fetched_eq_some_iff (s : State) {v : Byte} (hv : v ∈ [(0xF3 : Byte), 0xFB, 0xD9]) :
    imeOpcode (fetched (wake (beginStep s))) = some v ↔ memRead s s.cpu.pc = v := by
  rw [imeOpcode_fetched]
  split
  · exact Option.some_inj
  · next h => exact ⟨nofun, fun hp => absurd (hp ▸ hv) h⟩

/-! ## IME and IME_DELAY after an instruction -/

theorem imeOpcode_eq_none {i : Instr} (h : i ∉ [.di, .ei, .reti]) : imeOpcode i = none := by
  unfold imeOpcode
  split
  · exact absurd (by decide) h
  · exact absurd (by decide) h
  · exact absurd (by decide) h
  · rfl

/-- DI clears both, EI sets IME_DELAY, RETI sets IME (R854, R855, R809), and no other instruction writes them. -/
theorem exec_ime {s t : State} {i : Instr} (h : exec i s = .next t) :
    t.cpu.ime = (if imeOpcode i = some 0xF3 then false else if imeOpcode i = some 0xD9 then true else s.cpu.ime) ∧
    t.cpu.imeDelay =
      if imeOpcode i = some 0xF3 then false else if imeOpcode i = some 0xFB then true else s.cpu.imeDelay := by
  by_cases hi : i ∈ [.di, .ei, .reti]
  · simp only [List.mem_cons, List.not_mem_nil, or_false] at hi
    rcases hi with rfl | rfl | rfl
    · cases h; exact ⟨rfl, rfl⟩
    · cases h; exact ⟨rfl, rfl⟩
    · cases h; exact ⟨rfl, rfl⟩
  · rw [imeOpcode_eq_none hi]
    exact (executed_of_exec h).ime_eq hi

/-- The end of an instruction's step adds EI's delay (R856). -/
theorem CpuStepped.ime_of_execute {s u : State} (e : CpuStepped s u) (h : stepKind s = .execute) :
    let op := memRead s s.cpu.pc
    u.cpu.ime = (if op = 0xF3 then false else if op = 0xD9 then true else s.cpu.ime || s.cpu.imeDelay) ∧
    u.cpu.imeDelay = (decide (op = 0xFB) && !s.cpu.imeDelay) := by
  cases e with
  | idle n hk => exact absurd h hk.2
  | service k hk _ => exact absurd (h.symm.trans hk) (by decide)
  | execute _ he =>
    obtain ⟨hime, hdelay⟩ := exec_ime he
    have hF3 := imeOpcode_fetched_eq_some_iff s (v := 0xF3) (by decide)
    have hFB := imeOpcode_fetched_eq_some_iff s (v := 0xFB) (by decide)
    have hD9 := imeOpcode_fetched_eq_some_iff s (v := 0xD9) (by decide)
    simp only [eiDelay_cpu, hime, hdelay, hF3, hFB, hD9, afterFetch_cpu, wake_cpu, beginStep_frame]
    generalize memRead s s.cpu.pc = op
    by_cases h3 : op = 0xF3
    · subst h3; simp
    by_cases h9 : op = 0xD9
    · subst h9; cases s.cpu.imeDelay <;> simp
    by_cases hB : op = 0xFB
    · subst hB; simp
    · simp only [if_neg h3, if_neg h9, if_neg hB, decide_eq_false hB]
      cases s.cpu.imeDelay <;> simp

theorem CpuStepped.ime_of_service {s u : State} (e : CpuStepped s u) (h : stepKind s = .service) :
    u.cpu.ime = false ∧ u.cpu.imeDelay = false := by
  cases e with
  | idle n hk => exact absurd h hk.1
  | service k _ _ => simp [enterInterrupt]
  | execute hk _ => exact absurd (h.symm.trans hk) (by decide)

theorem CpuStepped.ime_of_idle {s u : State} (e : CpuStepped s u) (h : stepKind s ≠ .service)
    (h' : stepKind s ≠ .execute) : u.cpu.ime = s.cpu.ime ∧ u.cpu.imeDelay = s.cpu.imeDelay := by
  cases e with
  | idle n _ => exact ⟨rfl, rfl⟩
  | service k hk _ => exact absurd hk h
  | execute hk _ => exact absurd hk h'

/-! ## The choice of a step, bit by bit -/

theorem pending_getLsbD (s : State) {k : Nat} (hk : k < 5) :
    (pending s).getLsbD k = (s.irq.ie.getLsbD k && s.irq.iflag.getLsbD k) := by
  simp [pending, BitVec.getLsbD_setWidth, hk, -BitVec.getLsbD_eq_getElem]

theorem nonePending_iff (s : State) : Spec.nonePending s ↔ pending s = 0 := by
  constructor
  · intro h
    apply BitVec.eq_of_getLsbD_eq
    intro k hk
    rw [pending_getLsbD s hk]
    simpa using h k hk
  · intro h k hk
    rw [← Bool.and_eq_true, ← pending_getLsbD s hk, h]
    simp

theorem executes_iff (s : State) : Spec.executes s ↔ stepKind s = .execute := by
  simp only [Spec.executes, nonePending_iff, stepKind_eq_execute_iff, ne_eq]

/-- The interrupt taken is the pending one of the smallest number (R904). -/
theorem exists_services_iff (s : State) : (∃ k, Spec.services s k) ↔ stepKind s = .service := by
  rw [stepKind_eq_service_iff, ne_eq, ← nonePending_iff]
  constructor
  · rintro ⟨k, hl, ht, hi, hk, he, hf, -⟩
    exact ⟨hl, ht, hi, fun hn => hn k hk ⟨he, hf⟩⟩
  · rintro ⟨hl, ht, hi, hn⟩
    simp only [Spec.nonePending, not_forall, not_not] at hn
    have hex : ∃ k, k < 5 ∧ s.irq.ie.getLsbD k = true ∧ s.irq.iflag.getLsbD k = true := by
      obtain ⟨k, hk, hb⟩ := hn
      exact ⟨k, hk, hb⟩
    classical
    obtain ⟨hk, he, hf⟩ := Nat.find_spec hex
    exact ⟨Nat.find hex, hl, ht, hi, hk, he, hf, fun j hj hb => Nat.find_min hex hj ⟨hj.trans hk, hb⟩⟩

end Sys2Proof.Machine

open Sys2Proof Sys2Proof.Machine

/-- Settles O34: by what a step does (`stepped_of_step`), which opcodes write IME or IME_DELAY
(`imeOpcode_decode3`), and that the units leave the processor alone. -/
theorem interruptEnableNext : Obligations.InterruptEnableNext := by
  intro s t hstep
  obtain ⟨u, hu, rfl⟩ := stepped_of_step hstep
  simp only [advanceUnits_cpu]
  refine ⟨fun h => hu.ime_of_execute ((executes_iff s).mp h),
    fun k h => hu.ime_of_service ((exists_services_iff s).mp ⟨k, h⟩), fun he hs => hu.ime_of_idle ?_ ?_⟩
  · exact fun h => ((exists_services_iff s).mpr h).elim hs
  · exact fun h => he ((executes_iff s).mpr h)

end

section
/-! SUPPORT. The places of memory behind the address map, what a read sees of memory, and which places a write through
the dispatcher changes (20_memory.md R203 to R227). -/

namespace Sys2Proof.Machine

/-! ## The places behind the addresses -/

theorem vramBank_le (s : State) : vramBank s ≤ 1 := by
  unfold vramBank
  split
  · exact Nat.zero_le 1
  · exact Nat.le_of_lt_succ s.color.vbk.isLt

theorem wramBank_le (s : State) : wramBank s ≤ 7 := by
  unfold wramBank
  split
  · decide
  · split
    · decide
    · exact Nat.le_of_lt_succ s.color.svbk.isLt

/-- The window shows cartridge RAM only where there is some (R311, R318, R327), and then a place of it. -/
theorem cartWindow_ram_place {m : Mapper} {c : Cart} {a : Word} {k : Nat} (h : cartWindow m c a = .ram k) :
    cramBase ≤ k ∧ (CartLegal c → k < bootBase) := by
  have key : ∀ bank, c.ramBanks ≠ 0 → k = cramCell c bank a → cramBase ≤ k ∧ (CartLegal c → k < bootBase) := by
    intro bank hb hk
    simp only [cramCell, cramBase] at hk
    simp only [cramBase, bootBase]
    refine ⟨by omega, fun hc => ?_⟩
    obtain ⟨hpos, hle⟩ := hc hb
    have := Nat.mod_lt ((bank % c.ramBanks) * 8192 + (a.toNat - 0xA000)) hpos
    omega
  unfold cartWindow at h
  split at h
  · cases h
  · split at h
    · cases h
    · next hn =>
      exact key _ (fun h0 => hn (.inr h0)) (CartWindow.ram.inj h).symm
  · split at h
    · cases h
    · split at h
      · split at h
        · cases h
        · next hn => exact key _ hn (CartWindow.ram.inj h).symm
      · split at h <;> cases h

theorem romCell_le (m : Mapper) (c : Cart) (a : Word) : bootBase ≤ romCell m c a := by
  unfold romCell
  simp only [bootBase, romBase]
  split <;> omega

theorem bootRange_le {mode : HwMode} {a : Word} (h : bootRange mode a = true) : a.toNat ≤ 0x7FFF := by
  unfold bootRange at h
  cases mode <;> simp at h <;> omega

theorem unecho_not_echo (a : Word) : ¬ (0xE000 ≤ (unecho a).toNat ∧ (unecho a).toNat ≤ 0xFDFF) := by
  unfold unecho
  split
  · bv_omega
  · assumption

/-- The places a byte of RAM at an address b can have: VRAM, cartridge RAM, WRAM, OAM, HRAM. -/
def RamPlace (c : Cart) (b k : Nat) : Prop :=
  (0x8000 ≤ b ∧ b ≤ 0x9FFF ∧ vramBase ≤ k ∧ k < wramBase) ∨
  (0xA000 ≤ b ∧ b ≤ 0xBFFF ∧ cramBase ≤ k ∧ (CartLegal c → k < bootBase)) ∨
  (0xC000 ≤ b ∧ b ≤ 0xDFFF ∧ wramBase ≤ k ∧ k < cramBase) ∨
  (0xFE00 ≤ b ∧ b ≤ 0xFE9F ∧ k < oamBase + 160) ∨
  (0xFF80 ≤ b ∧ hramBase ≤ k ∧ k < hramBase + 127)

/-- Which addresses can select a target, and which places it can name. -/
def Target.InRegion (c : Cart) (b : Nat) : Target → Prop
  | .boot k => b ≤ 0x7FFF ∧ bootBase ≤ k
  | .rom k => b ≤ 0x7FFF ∧ bootBase ≤ k
  | .ram k => RamPlace c b k
  | .nothing => True
  | .rtc _ => 0xA000 ≤ b ∧ b ≤ 0xBFFF
  | .io => 0xFF00 ≤ b ∧ b ≤ 0xFF7F
  | .ie => b = 0xFFFF

/-- The address map by regions (R203). -/
theorem target_inRegion (arb : Bool) (s : State) (a : Word) :
    (target arb s a).InRegion s.cart (unecho a).toNat := by
  have hv := vramBank_le s
  have hw := wramBank_le s
  have he := unecho_not_echo a
  unfold target
  simp only
  generalize unecho a = b at he ⊢
  have hb := b.isLt
  split
  · next h => exact ⟨bootRange_le h.2, Nat.le_add_right _ _⟩
  split
  · next h => exact ⟨h, romCell_le _ _ _⟩
  split
  · split
    · trivial
    · simp only [Target.InRegion, RamPlace, vramCell, vramBase, wramBase]
      omega
  split
  · split
    · trivial
    · next k hk => exact .inr (.inl ⟨by omega, by omega, cartWindow_ram_place hk⟩)
    · exact ⟨by omega, by omega⟩
  split
  · simp only [Target.InRegion, RamPlace, wramCell, wramBase, cramBase]
    omega
  split
  · simp only [Target.InRegion, RamPlace, wramCell, wramBase, cramBase]
    omega
  split
  · split
    · trivial
    · simp only [Target.InRegion, RamPlace, oamBase]
      omega
  split
  · trivial
  split
  · exact ⟨by omega, by assumption⟩
  split
  · simp only [Target.InRegion, RamPlace, hramBase]
    omega
  · simp only [Target.InRegion]
    omega

theorem unecho_of_high {a : Word} (h : 0xFE00 ≤ (unecho a).toNat) : unecho a = a := by
  unfold unecho at h ⊢
  split at h
  · bv_omega
  · rw [if_neg (by assumption)]

theorem unecho_of_not_echo {a : Word} (h : ¬ (0xE000 ≤ a.toNat ∧ a.toNat ≤ 0xFDFF)) : unecho a = a := if_neg h

theorem io_of_target {arb : Bool} {s : State} {a : Word} (h : target arb s a = .io) :
    0xFF00 ≤ a.toNat ∧ a.toNat ≤ 0xFF7F := by
  have hr := target_inRegion arb s a
  rw [h] at hr
  rw [unecho_of_high (by exact le_trans (by decide) hr.1)] at hr
  exact hr

theorem storeCell_eq_some_iff {s : State} {a : Word} {k : Nat} : storeCell s a = some k ↔ target true s a = .ram k := by
  unfold storeCell
  split
  · next h => simp [h]
  · next h => simpa using h k

theorem storeCell_place {s : State} {a : Word} {k : Nat} (h : storeCell s a = some k) :
    RamPlace s.cart (unecho a).toNat k := by
  have hr := target_inRegion true s a
  rwa [storeCell_eq_some_iff.mp h] at hr

/-- No instruction can write a place of ROM or of BOOT_IMAGE. -/
theorem RamPlace.lt_bootBase {c : Cart} {b k : Nat} (h : RamPlace c b k) (hc : CartLegal c) : k < bootBase := by
  simp only [RamPlace, vramBase, wramBase, cramBase, oamBase, hramBase, bootBase] at h ⊢
  rcases h with h | ⟨-, -, -, h⟩ | h | h | h
  · omega
  · exact h hc
  · omega
  · omega
  · omega

/-- Palette memory shows at no address. -/
theorem RamPlace.not_palette {c : Cart} {b k : Nat} (h : RamPlace c b k) :
    k < bgPalBase ∨ bgPalBase + 128 ≤ k := by
  simp only [RamPlace, vramBase, wramBase, cramBase, oamBase, hramBase, bgPalBase] at h ⊢
  omega

/-! ## What a read sees of memory -/

/-- The place of the byte that a target shows, if it shows a byte of the memories. -/
def Target.place : Target → Option Nat
  | .boot k => some k
  | .rom k => some k
  | .ram k => some k
  | _ => none

/-- An I/O read sees palette memory only. -/
theorem ioRead_setMem {s : State} {m : Memory} (arb : Bool) (a : Word)
    (h : ∀ k, bgPalBase ≤ k → k < bgPalBase + 128 → m.read k = s.mem.read k) :
    ioRead arb { s with mem := m } a = ioRead arb s a := by
  have hbg : m.read (bgPalBase + s.color.bcps.index.toNat) = s.mem.read (bgPalBase + s.color.bcps.index.toNat) :=
    h _ (Nat.le_add_right _ _) (by have := s.color.bcps.index.isLt; omega)
  have hobj : m.read (objPalBase + s.color.ocps.index.toNat) = s.mem.read (objPalBase + s.color.ocps.index.toNat) := by
    have := s.color.ocps.index.isLt
    refine h _ ?_ ?_ <;> simp only [bgPalBase, objPalBase] <;> omega
  have howns : ∀ x, ppuOwns { s with mem := m } x = ppuOwns s x := fun _ => rfl
  unfold ioRead
  simp only [hbg, hobj, howns]
  rfl

/-- A read sees the byte its address shows, or palette memory through the I/O registers, and nothing else of memory. -/
theorem busRead_setMem {arb : Bool} {s : State} {m : Memory} {a : Word}
    (hp : ∀ k, (target arb s a).place = some k → m.read k = s.mem.read k)
    (hio : target arb s a = .io → ∀ k, bgPalBase ≤ k → k < bgPalBase + 128 → m.read k = s.mem.read k) :
    busRead arb { s with mem := m } a = busRead arb s a := by
  unfold busRead
  rw [target_mem]
  cases ht : target arb s a with
  | boot k | rom k | ram k => exact hp k (by rw [ht]; rfl)
  | io => exact ioRead_setMem arb a (hio ht)
  | nothing | rtc _ | ie => rfl

/-- The read of a DMA engine is the processor's where the arbiter never stands in the way (R221). -/
theorem memRead_unblocked (s : State) (a : Word) : memRead (Spec.unblocked s) a = dmaRead s a := by
  have howns : ∀ x, ppuOwns (Spec.unblocked s) x = false := fun _ => rfl
  have ht : target true (Spec.unblocked s) a = target false s a := by
    unfold target; simp only [howns]; rfl
  unfold memRead dmaRead busRead
  rw [ht]
  cases target false s a with
  | io => unfold ioRead; simp only [howns]; rfl
  | _ => rfl

/-! ## Which places the DMA engines write -/

/-- An OAM DMA is the copy of the HDMA engine, into OAM. -/
theorem oamDmaFrom_eq_hdmaCopyFrom (base : Word) (i n : Nat) (s : State) :
    oamDmaFrom base i n s = hdmaCopyFrom base oamBase i n s := by
  induction n generalizing i s with
  | zero => simp only [oamDmaFrom, hdmaCopyFrom]
  | succ n ih => simp only [oamDmaFrom, hdmaCopyFrom, ih]

theorem read_hdmaCopyFrom_of_outside {src : Word} {dst i n : Nat} {s : State} {j : Nat}
    (h : j < dst + i ∨ dst + i + n ≤ j) : (hdmaCopyFrom src dst i n s).mem.read j = s.mem.read j := by
  induction n generalizing i s with
  | zero => rfl
  | succ n ih =>
    simp only [hdmaCopyFrom]
    rw [ih (by omega)]
    exact Memory.read_write_ne _ _ (by omega)

theorem read_writeDma_of_outside {v : Byte} {s : State} {j : Nat} (h : ¬ (oamBase ≤ j ∧ j < oamBase + 160)) :
    (writeDma v s).mem.read j = s.mem.read j := by
  rw [writeDma, oamDmaFrom_eq_hdmaCopyFrom]
  exact read_hdmaCopyFrom_of_outside (by omega)

/-- The place of the first byte of the next HDMA block (R225). -/
def hdmaPlace (s : State) : Nat := vramCell s.color.vbk.toNat (s.hdma.dst.toNat / 16 * 16)

theorem hdmaPlace_bounds (s : State) : vramCell 0 0 ≤ hdmaPlace s ∧ hdmaPlace s + 16 ≤ vramCell 2 0 := by
  have hb := s.color.vbk.isLt
  have hd := s.hdma.dst.isLt
  simp only [hdmaPlace, vramCell, vramBase]
  omega

theorem read_hdmaBlock_of_outside {s : State} {j : Nat} (h : j < hdmaPlace s ∨ hdmaPlace s + 16 ≤ j) :
    (hdmaBlock s).mem.read j = s.mem.read j :=
  read_hdmaCopyFrom_of_outside (i := 0) h

theorem read_hdmaBlocks_of_outside_vram {n : Nat} {s : State} {j : Nat} (h : ¬ (vramCell 0 0 ≤ j ∧ j < vramCell 2 0)) :
    (repeatN hdmaBlock n s).mem.read j = s.mem.read j := by
  induction n generalizing s with
  | zero => rfl
  | succ n ih =>
    have hp := hdmaPlace_bounds s
    simp only [repeatN]
    rw [ih, read_hdmaBlock_of_outside (by omega)]

theorem read_writeHdma5_of_outside_vram {v : Byte} {s : State} {j : Nat}
    (h : ¬ (vramCell 0 0 ≤ j ∧ j < vramCell 2 0)) : (writeHdma5 v s).mem.read j = s.mem.read j := by
  unfold writeHdma5
  simp only
  split
  · rfl
  · split
    · rfl
    · exact read_hdmaBlocks_of_outside_vram h

theorem read_writeBcpd_of_ne {v : Byte} {s : State} {j : Nat} (h : j ≠ bgPalBase + s.color.bcps.index.toNat) :
    (writeBcpd v s).mem.read j = s.mem.read j := by
  unfold writeBcpd
  simp only
  split
  · rfl
  · exact Memory.read_write_ne _ _ h

theorem read_writeOcpd_of_ne {v : Byte} {s : State} {j : Nat} (h : j ≠ objPalBase + s.color.ocps.index.toNat) :
    (writeOcpd v s).mem.read j = s.mem.read j := by
  unfold writeOcpd
  simp only
  split
  · rfl
  · exact Memory.read_write_ne _ _ h

/-! ## Which places a write changes -/

/-- The addresses of the I/O registers whose write changes memory (R120). -/
theorem address_of_ioReg {mode : HwMode} {a : Word} {r : IoReg} {n : Nat} (h : ioReg mode a = r)
    (hn : (r, n) ∈ [(IoReg.dma, 0x46), (.hdma5, 0x55), (.bcpd, 0x69), (.ocpd, 0x6B)])
    (ha : 0xFF00 ≤ a.toNat ∧ a.toNat ≤ 0xFF7F) : a.toNat = 0xFF00 + n := by
  have hmap : ∀ k < 256, ∀ p ∈ [(IoReg.dma, 0x46), (.hdma5, 0x55), (.bcpd, 0x69), (.ocpd, 0x6B)],
      ioRegColor k = p.1 → k = p.2 := by decide +kernel
  have hcolor : ioRegColor (a.toNat % 256) = r := by
    unfold ioReg at h
    simp only at h
    split at h
    · exact h
    · split at h
      · subst h; simp at hn
      · exact h
  have := hmap (a.toNat % 256) (Nat.mod_lt _ (by decide)) (r, n) hn hcolor
  omega

/-- A write through the dispatcher changes a byte of RAM at its address, OAM by DMA, VRAM by HDMA5, or a byte of
palette memory by BCPD or OCPD, and no other byte (R205, R227). -/
theorem place_of_memWrite {s : State} {a : Word} {v : Byte} {j : Nat}
    (h : (memWrite s a v).mem.read j ≠ s.mem.read j) :
    storeCell s a = some j ∨ (a = 0xFF46 ∧ oamBase ≤ j ∧ j < oamBase + 160) ∨
      (s.params.mode = .color ∧
        ((a = 0xFF55 ∧ vramCell 0 0 ≤ j ∧ j < vramCell 2 0) ∨
         (a = 0xFF69 ∧ j = bgPalBase + s.color.bcps.index.toNat) ∨
         (a = 0xFF6B ∧ j = objPalBase + s.color.ocps.index.toNat))) := by
  unfold memWrite at h
  cases ht : target true s a with
  | ram k =>
    rw [ht] at h
    have hk : j = k := by_contra fun hne => h (Memory.read_write_ne _ _ hne)
    exact .inl (storeCell_eq_some_iff.mpr (hk ▸ ht))
  | io =>
    rw [ht] at h
    have ha := io_of_target ht
    have hcolor : ∀ {r}, ioReg s.params.mode a = r → r.colorOnly = true → s.params.mode = .color := by
      intro r hr hc
      have := color_of_ioReg hr hc
      cases hm : s.params.mode with
      | monochrome => exact absurd hm this
      | color => rfl
    by_cases hw : (ioReg s.params.mode a).writesMemory = false
    · exact absurd (by rw [mem_ioWrite v hw]) h
    simp only [ioWrite] at h
    cases hr : ioReg s.params.mode a with
    | dma =>
      rw [hr] at h
      have := address_of_ioReg (n := 0x46) hr (by decide) ha
      exact .inr (.inl ⟨BitVec.eq_of_toNat_eq this, by_contra fun hj => h (read_writeDma_of_outside hj)⟩)
    | hdma5 =>
      rw [hr] at h
      have := address_of_ioReg (n := 0x55) hr (by decide) ha
      exact .inr (.inr ⟨hcolor hr rfl, .inl ⟨BitVec.eq_of_toNat_eq this,
        by_contra fun hj => h (read_writeHdma5_of_outside_vram hj)⟩⟩)
    | bcpd =>
      rw [hr] at h
      have := address_of_ioReg (n := 0x69) hr (by decide) ha
      exact .inr (.inr ⟨hcolor hr rfl, .inr (.inl ⟨BitVec.eq_of_toNat_eq this,
        by_contra fun hj => h (read_writeBcpd_of_ne hj)⟩)⟩)
    | ocpd =>
      rw [hr] at h
      have := address_of_ioReg (n := 0x6B) hr (by decide) ha
      exact .inr (.inr ⟨hcolor hr rfl, .inr (.inr ⟨BitVec.eq_of_toNat_eq this,
        by_contra fun hj => h (read_writeOcpd_of_ne hj)⟩)⟩)
    | _ => rw [hr] at hw; exact absurd rfl hw
  | boot _ | rom _ | nothing | rtc _ | ie => rw [ht] at h; exact absurd rfl h

end Sys2Proof.Machine

open Sys2Proof Sys2Proof.Machine

/-- Settles O43: a store to RAM writes the one byte `storeCell` names (`memWrite_of_storeCell`), which no place of ROM
or palette memory is, and `place_of_memWrite` lists the bytes any write can change. -/
theorem memoryWrite : Obligations.MemoryWrite := by
  intro s a v hc
  refine ⟨fun k hk => ?_, fun j => place_of_memWrite⟩
  have hplace := storeCell_place hk
  rw [memWrite_of_storeCell hk]
  refine ⟨rfl, fun b hb => ?_, fun b hb => busRead_setMem (fun j hj => ?_) fun _ j hlo hhi => ?_⟩
  · rw [memRead_of_storeCell (k := k) (by simpa using hb)]
    exact Memory.read_write_self _ _ _
  · refine Memory.read_write_ne _ _ fun hjk => ?_
    subst hjk
    have hr := target_inRegion true s b
    have hlt := hplace.lt_bootBase hc
    cases ht : target true s b with
    | ram i =>
      rw [ht] at hj
      cases hj
      exact hb (storeCell_eq_some_iff.mpr ht)
    | boot i | rom i =>
      rw [ht] at hj hr
      cases hj
      exact absurd hr.2 (by omega)
    | nothing | rtc _ | io | ie => rw [ht] at hj; cases hj
  · exact Memory.read_write_ne _ _ (by have := hplace.not_palette; omega)

end

section
/-! SUPPORT. What no step changes: the image, the boot image, the cartridge's sizes, the fixed parameters; and that
BOOT_MAPPED never comes back (10_state.md R142; 20_memory.md R206, R219). -/

namespace Sys2Proof.Machine

/-! ## One dot of the picture engine (R1004) -/

theorem statTrigger_eq (k : Nat) (s : State) : statTrigger k s = { s with irq := (statTrigger k s).irq } := by
  unfold statTrigger; split <;> rfl

theorem lycTrigger_eq (s : State) : lycTrigger s = { s with irq := (lycTrigger s).irq } := by
  unfold lycTrigger
  split
  · exact statTrigger_eq 3 s
  · rfl

theorem enterLine_eq (s : State) : enterLine s = { s with ppu := (enterLine s).ppu, irq := (enterLine s).irq } := by
  unfold enterLine
  split
  · rw [statTrigger_eq]; rfl
  · split
    · simp only
      split
      · rw [statTrigger_eq]
      · rw [statTrigger_eq]
    · rfl

theorem nextLine_eq (s : State) : nextLine s = { s with ppu := (nextLine s).ppu, irq := (nextLine s).irq } := by
  unfold nextLine
  rw [lycTrigger_eq, enterLine_eq]

/-- The dot at which a visible line enters mode 0. -/
theorem ppuDot_of_entry {s : State} (h : s.ppu.dot = 251 ∧ s.ppu.line < 144) :
    ppuDot s = enterHblank { s with ppu.dot := 252 } := by
  obtain ⟨hd, hl⟩ := h
  simp [ppuDot, hd, hl]

/-- Any other dot changes the picture engine and IF only. -/
theorem ppuDot_of_not_entry {s : State} (h : ¬ (s.ppu.dot = 251 ∧ s.ppu.line < 144)) :
    ppuDot s = { s with ppu := (ppuDot s).ppu, irq := (ppuDot s).irq } := by
  unfold ppuDot
  simp only
  split
  · split <;> rfl
  · split
    · next hd =>
      rw [if_neg (by omega)]
    · split
      · rw [nextLine_eq]
      · rfl

/-- The read-only memories, the sizes and the parameters are the same, and the boot image is not mapped back. -/
structure RomKept (s t : State) : Prop where
  rom : ∀ j, bootBase ≤ j → t.mem.read j = s.mem.read j
  cart : t.cart = s.cart
  params : t.params = s.params
  boot : s.bootMapped = false → t.bootMapped = false

theorem RomKept.refl (s : State) : RomKept s s := ⟨fun _ _ => rfl, rfl, rfl, id⟩

theorem RomKept.trans {s t u : State} (h : RomKept s t) (k : RomKept t u) : RomKept s u :=
  ⟨fun j hj => (k.rom j hj).trans (h.rom j hj), k.cart.trans h.cart, k.params.trans h.params,
    fun hb => k.boot (h.boot hb)⟩

theorem RomKept.repeatN {f : State → State} (h : ∀ s, RomKept s (f s)) (n : Nat) (s : State) :
    RomKept s (repeatN f n s) := by
  induction n generalizing s with
  | zero => exact .refl s
  | succ n ih => exact (h s).trans (ih _)

/-- An update of other fields. -/
theorem RomKept.of_eq {s t : State} (hm : t.mem = s.mem) (hc : t.cart = s.cart) (hp : t.params = s.params)
    (hb : t.bootMapped = s.bootMapped) : RomKept s t :=
  ⟨fun _ _ => by rw [hm], hc, hp, fun h => hb.trans h⟩

/-- The same from a state that differs in other fields. -/
theorem RomKept.of_same {s s' t : State} (h : RomKept s' t) (hm : s'.mem = s.mem) (hc : s'.cart = s.cart)
    (hp : s'.params = s.params) (hb : s'.bootMapped = s.bootMapped) : RomKept s t :=
  (RomKept.of_eq hm hc hp hb).trans h

theorem RomKept.cycles {s t : State} (h : RomKept s t) (n : Nat) : RomKept s { t with acct.cycles := n } :=
  h.trans (.of_eq rfl rfl rfl rfl)

/-! ## Writes -/

theorem timaInc_bootMapped (s : State) : (timaInc s).bootMapped = s.bootMapped := by
  unfold timaInc; split <;> rfl

theorem resetDivider_bootMapped (s : State) : (resetDivider s).bootMapped = s.bootMapped := by
  unfold resetDivider
  simp only
  split
  · exact timaInc_bootMapped _
  · rfl

theorem writeTac_bootMapped (v : Byte) (s : State) : (writeTac v s).bootMapped = s.bootMapped := by
  unfold writeTac
  simp only
  split
  · exact timaInc_bootMapped _
  · rfl

theorem writeSc_bootMapped (v : Byte) (s : State) : (writeSc v s).bootMapped = s.bootMapped := by
  unfold writeSc
  simp only
  split
  · split <;> rfl
  · rfl

theorem writeHdma5_bootMapped (v : Byte) (s : State) : (writeHdma5 v s).bootMapped = s.bootMapped := by
  have hblocks : ∀ (n : Nat) (u : State), (repeatN hdmaBlock n u).bootMapped = u.bootMapped := by
    intro n
    induction n with
    | zero => exact fun _ => rfl
    | succ n ih => intro u; rw [repeatN, ih, hdmaBlock_eq]
  unfold writeHdma5
  simp only
  split
  · rfl
  · split
    · rfl
    · exact hblocks _ _

/-- BOOT_MAPPED is written by 0xFF50 only, which clears it (R142). -/
theorem ioWrite_bootMapped (s : State) (a : Word) (v : Byte) (h : s.bootMapped = false) :
    (ioWrite s a v).bootMapped = false := by
  unfold ioWrite
  cases ioReg s.params.mode a with
  | sc => exact (writeSc_bootMapped v s).trans h
  | div => exact (resetDivider_bootMapped s).trans h
  | tac => exact (writeTac_bootMapped v s).trans h
  | dma => simp only; rw [writeDma_eq, h]
  | boot => simp only; split <;> [exact h; rfl]
  | hdma5 => exact (writeHdma5_bootMapped v s).trans h
  | bcpd => simp only [writeBcpd]; split <;> exact h
  | ocpd => simp only [writeOcpd]; split <;> exact h
  | _ => exact h

theorem memWrite_bootMapped (s : State) (a : Word) (v : Byte) (h : s.bootMapped = false) :
    (memWrite s a v).bootMapped = false := by
  unfold memWrite
  cases target true s a with
  | io => exact ioWrite_bootMapped s a v h
  | _ => exact h

/-- Every place a write can change lies below ROM and BOOT_IMAGE. -/
theorem RomKept.memWrite {s : State} (hc : CartLegal s.cart) (a : Word) (v : Byte) : RomKept s (memWrite s a v) := by
  refine ⟨fun j hj => by_contra fun hne => ?_, memWrite_cart s a v, memWrite_params s a v, memWrite_bootMapped s a v⟩
  have hbg := s.color.bcps.index.isLt
  have hobj := s.color.ocps.index.isLt
  simp only [bootBase] at hj
  rcases place_of_memWrite hne with h | ⟨-, h⟩ | ⟨-, ⟨-, h⟩ | ⟨-, h⟩ | ⟨-, h⟩⟩
  · exact absurd ((storeCell_place h).lt_bootBase hc) (by simp only [bootBase]; omega)
  · simp only [oamBase] at h; omega
  · simp only [vramCell, vramBase] at h; omega
  · simp only [bgPalBase] at h; omega
  · simp only [objPalBase] at h; omega

/-! ## Instructions -/

theorem RomKept.setCpu (s : State) (x : Cpu) : RomKept s { s with cpu := x } := .of_eq rfl rfl rfl rfl

theorem Effect.romKept {w : Writes} {s t : State} (e : Effect w s t) (hc : CartLegal s.cart) : RomKept s t := by
  induction e with
  | start => exact .refl s
  | store _ a v ih => exact ih.trans (.memWrite (by rw [ih.cart]; exact hc) a v)
  | reg _ _ _ ih | sp _ _ _ ih | pc _ _ _ ih | flags _ _ _ ih | cycles _ _ ih => exact ih.trans (.of_eq rfl rfl rfl rfl)

theorem RomKept.resetDivider (s : State) : RomKept s (resetDivider s) :=
  .of_eq (mem_resetDivider s) (sameCore_resetDivider s).cart (sameCore_resetDivider s).params
    (resetDivider_bootMapped s)

theorem RomKept.halt (s : State) : RomKept s (halt s) := by
  unfold Machine.halt
  split
  · exact .setCpu s _
  · exact .setCpu s _

theorem Executed.romKept {s t : State} {i : Instr} (e : Executed s i t) (hc : CartLegal s.cart) : RomKept s t := by
  cases e with
  | row e => exact e.romKept hc
  | di | ei | reti | lock => exact .of_eq rfl rfl rfl rfl
  | halt => exact (RomKept.halt s).cycles _
  | speedSwitch => exact ((RomKept.resetDivider _).cycles _).of_same rfl rfl rfl rfl
  | stop => exact ((RomKept.resetDivider s).trans (.setCpu _ _)).cycles _

/-- The entry into an interrupt writes SP, PC and the two bytes below SP. -/
theorem RomKept.enterInterrupt {s : State} (hc : CartLegal s.cart) (k : Source) : RomKept s (enterInterrupt k s) := by
  have e : Effect { regs := [], sp := true, pc := true, flags := false }
      { clearPending k s with cpu.ime := false, cpu.imeDelay := false, cpu.haltBugPending := false }
      (Machine.enterInterrupt k s) := (Effect.start.push16 rfl _).pc rfl _
  exact (e.romKept hc).of_same rfl rfl rfl rfl

theorem CpuStepped.romKept {s u : State} (e : CpuStepped s u) (hc : CartLegal s.cart) : RomKept s u := by
  cases e with
  | idle n _ => exact .of_eq rfl rfl rfl rfl
  | service k _ _ =>
    exact ((RomKept.enterInterrupt (s := wake (beginStep s)) hc k).cycles _).of_same rfl rfl rfl rfl
  | execute _ he =>
    rw [eiDelay_eq]
    exact (((executed_of_exec he).romKept hc).trans (.setCpu _ _)).of_same rfl rfl rfl rfl

/-! ## Units -/

theorem RomKept.request (k : Source) (s : State) : RomKept s (request k s) := .of_eq rfl rfl rfl rfl

theorem RomKept.statTrigger (k : Nat) (s : State) : RomKept s (statTrigger k s) := by
  unfold Machine.statTrigger
  split
  · exact .request _ s
  · exact .refl s

theorem RomKept.timaInc (s : State) : RomKept s (timaInc s) :=
  .of_eq (mem_timaInc s) (sameCore_timaInc s).cart (sameCore_timaInc s).params (timaInc_bootMapped s)

theorem RomKept.timerTick (s : State) : RomKept s (timerTick s) := by
  unfold Machine.timerTick
  simp only
  split
  · exact (RomKept.timaInc _).of_same rfl rfl rfl rfl
  · exact .of_eq rfl rfl rfl rfl

theorem RomKept.serialShift (s : State) : RomKept s (serialShift s) := by
  unfold Machine.serialShift
  simp only
  split
  · exact .of_eq rfl rfl rfl rfl
  · exact .of_eq rfl rfl rfl rfl

theorem RomKept.serialLoop (n : Nat) (s : State) : RomKept s (serialLoop n s) := by
  induction n generalizing s with
  | zero => exact .refl s
  | succ n ih =>
    simp only [Machine.serialLoop]
    split
    · exact (RomKept.serialShift s).trans (ih _)
    · exact .refl s

theorem RomKept.serialAdvance (c : Nat) (s : State) : RomKept s (serialAdvance c s) := by
  unfold Machine.serialAdvance
  simp only
  split
  · exact .refl s
  · exact (RomKept.serialLoop _ _).of_same rfl rfl rfl rfl

/-- A block is written to VRAM. -/
theorem RomKept.hdmaBlock (s : State) : RomKept s (hdmaBlock s) := by
  refine ⟨fun j hj => read_hdmaBlock_of_outside ?_, ?_, ?_, ?_⟩
  · have := (hdmaPlace_bounds s).2
    simp only [vramCell, vramBase, bootBase] at this hj
    omega
  all_goals rw [hdmaBlock_eq]
  exact id

theorem RomKept.hblankHdma (s : State) : RomKept s (hblankHdma s) := by
  unfold Machine.hblankHdma
  split
  · simp only
    split
    · exact (RomKept.hdmaBlock s).trans (.of_eq rfl rfl rfl rfl)
    · exact .hdmaBlock s
  · exact .refl s

theorem RomKept.ppuDot (s : State) : RomKept s (ppuDot s) := by
  by_cases h : s.ppu.dot = 251 ∧ s.ppu.line < 144
  · rw [ppuDot_of_entry h]
    have hline : RomKept s (renderLine s.ppu.line { s with ppu.dot := 252, ppu.mode := .hblank }) := by
      rw [renderLine_eq]; exact .of_eq rfl rfl rfl rfl
    exact hline.trans ((RomKept.hblankHdma _).trans (.statTrigger _ _))
  · rw [ppuDot_of_not_entry h]
    exact .of_eq rfl rfl rfl rfl

theorem RomKept.ppuAdvance (d : Nat) (s : State) : RomKept s (ppuAdvance d s) := by
  unfold Machine.ppuAdvance
  split
  · exact .repeatN RomKept.ppuDot d s
  · exact .refl s

theorem RomKept.advanceUnits (ds : Bool) (s : State) : RomKept s (advanceUnits ds s) := by
  unfold Machine.advanceUnits
  exact ((((RomKept.ppuAdvance _ s).trans (.repeatN RomKept.timerTick _ _)).trans (.serialAdvance _ _)).trans
    (.of_eq rfl rfl rfl rfl))

end Sys2Proof.Machine

open Sys2Proof Sys2Proof.Machine

/-- Settles O47: every place a write can change lies below ROM and BOOT_IMAGE (`RomKept.memWrite`), and so does every
place an HBlank transfer writes (`RomKept.advanceUnits`). -/
theorem romNeverChanges : Obligations.RomNeverChanges := by
  intro s t hc hstep
  obtain ⟨u, hu, rfl⟩ := stepped_of_step hstep
  have h := (hu.romKept hc).trans (.advanceUnits s.cpu.doubleSpeed u)
  exact ⟨h.rom, h.cart, h.params, h.boot⟩

end

section
/-! SUPPORT. Reads and writes of the I/O registers by name, and the arbiter (20_memory.md R220; 10_state.md R157 to
R160). -/

namespace Sys2Proof.Machine

/-! ## The address map, region by region -/

theorem bootRange_of_high {mode : HwMode} {a : Word} (h : 0x8000 ≤ a.toNat) : bootRange mode a = false :=
  eq_false_of_ne_true fun hb => absurd (bootRange_le hb) (by omega)

theorem target_of_vram (arb : Bool) (s : State) {a : Word} (lo : 0x8000 ≤ a.toNat) (hi : a.toNat ≤ 0x9FFF) :
    target arb s a =
      if arb && ppuOwns s .vram then .nothing else .ram (vramCell (vramBank s) (a.toNat - 0x8000)) := by
  have hecho : unecho a = a := unecho_of_not_echo (by omega)
  simp only [target, hecho, bootRange_of_high lo, Bool.false_eq_true, and_false, if_false]
  rw [if_neg (by omega), if_pos hi]

theorem target_of_oam (arb : Bool) (s : State) {a : Word} (lo : 0xFE00 ≤ a.toNat) (hi : a.toNat ≤ 0xFE9F) :
    target arb s a = if arb && ppuOwns s .oam then .nothing else .ram (oamBase + (a.toNat - 0xFE00)) := by
  have hecho : unecho a = a := unecho_of_not_echo (by omega)
  have hboot : bootRange s.params.mode a = false := bootRange_of_high (by omega)
  simp only [target, hecho, hboot, Bool.false_eq_true, and_false, if_false]
  repeat rw [if_neg (by omega)]
  rw [if_pos hi]

/-- A read and a write of an address that selects nothing (R217, R218). -/
theorem memRead_of_nothing {s : State} {a : Word} (h : target true s a = .nothing) : memRead s a = 0xFF := by
  simp only [memRead, busRead, h]

theorem memWrite_of_nothing {s : State} {a : Word} (v : Byte) (h : target true s a = .nothing) :
    memWrite s a v = s := by
  simp only [memWrite, h]

/-- A store to RAM reads back. -/
theorem memRead_memWrite_of_storeCell {s : State} {a : Word} {k : Nat} (v : Byte) (h : storeCell s a = some k) :
    memRead (memWrite s a v) a = v := by
  rw [memWrite_of_storeCell h, memRead_of_storeCell (k := k) (by simpa using h)]
  exact Memory.read_write_self _ _ _

theorem memRead_of_io (s : State) {a : Word} (lo : 0xFF00 ≤ a.toNat) (hi : a.toNat ≤ 0xFF7F) :
    memRead s a = ioRead true s a := by
  simp only [memRead, busRead, target_of_io true s lo hi]

/-! ## Who owns a memory (R220) -/

theorem ppuOwns_vram_iff (s : State) : ppuOwns s .vram = true ↔
    (s.params.vramBlocking = true ∧ s.ppu.lcdc.getLsbD 7 = true) ∧ s.ppu.mode = .drawing := by
  unfold ppuOwns Ppu.lcdOn
  cases s.ppu.mode <;> simp

theorem ppuOwns_oam_iff (s : State) : ppuOwns s .oam = true ↔
    (s.params.vramBlocking = true ∧ s.ppu.lcdc.getLsbD 7 = true) ∧
      (s.ppu.mode = .oamScan ∨ s.ppu.mode = .drawing) := by
  unfold ppuOwns Ppu.lcdOn
  cases s.ppu.mode <;> simp

theorem ppuOwns_palette_iff (s : State) : ppuOwns s .palette = true ↔
    (s.params.vramBlocking = true ∧ s.ppu.lcdc.getLsbD 7 = true) ∧ s.ppu.mode = .drawing := by
  unfold ppuOwns Ppu.lcdOn
  cases s.ppu.mode <;> simp

theorem vramBank_eq (s : State) : vramBank s = if s.params.mode = .color then s.color.vbk.toNat else 0 := by
  unfold vramBank
  cases s.params.mode <;> rfl

/-- The increment of a palette index (R158). -/
theorem PaletteIndex.bump_eq (p : PaletteIndex) :
    p.bump = { p with index := if p.autoInc then BitVec.ofNat 6 (p.index.toNat + 1) else p.index } := by
  have h : p.index + 1 = BitVec.ofNat 6 (p.index.toNat + 1) := by bv_omega
  rw [PaletteIndex.bump, h]
  split <;> rfl

/-! ## The palette data ports (R158, R160) -/

section
variable {s : State} (hm : s.params.mode = .color)
include hm

theorem memWrite_bcpd (v : Byte) : memWrite s 0xFF69 v = writeBcpd v s := by
  rw [memWrite_of_io s v (by decide) (by decide), ioWrite, hm]; rfl

theorem memWrite_ocpd (v : Byte) : memWrite s 0xFF6B v = writeOcpd v s := by
  rw [memWrite_of_io s v (by decide) (by decide), ioWrite, hm]; rfl

theorem memRead_bcpd : memRead s 0xFF69 =
    if ppuOwns s .palette then 0xFF else s.mem.read (bgPalBase + s.color.bcps.index.toNat) := by
  rw [memRead_of_io s (by decide) (by decide), ioRead, hm]; rfl

theorem memRead_ocpd : memRead s 0xFF6B =
    if ppuOwns s .palette then 0xFF else s.mem.read (objPalBase + s.color.ocps.index.toNat) := by
  rw [memRead_of_io s (by decide) (by decide), ioRead, hm]; rfl

end

theorem writeBcpd_of_owned {s : State} (v : Byte) (h : ppuOwns s .palette = true) :
    writeBcpd v s = { s with color.bcps := s.color.bcps.bump } := by simp [writeBcpd, h]

theorem writeBcpd_of_not_owned {s : State} (v : Byte) (h : ppuOwns s .palette = false) :
    writeBcpd v s = { s with
      mem := s.mem.write (bgPalBase + s.color.bcps.index.toNat) v, color.bcps := s.color.bcps.bump } := by
  simp [writeBcpd, h]

theorem writeOcpd_of_owned {s : State} (v : Byte) (h : ppuOwns s .palette = true) :
    writeOcpd v s = { s with color.ocps := s.color.ocps.bump } := by simp [writeOcpd, h]

theorem writeOcpd_of_not_owned {s : State} (v : Byte) (h : ppuOwns s .palette = false) :
    writeOcpd v s = { s with
      mem := s.mem.write (objPalBase + s.color.ocps.index.toNat) v, color.ocps := s.color.ocps.bump } := by
  simp [writeOcpd, h]

end Sys2Proof.Machine

open Sys2Proof Sys2Proof.Machine

/-- Settles O49: an owned address selects nothing and any other its byte of RAM (`target_of_vram`, `target_of_oam`);
the palette data ports by what they write (`writeBcpd_of_owned` and the others). -/
theorem arbiter : Obligations.Arbiter := by
  intro s a v
  simp only [← ppuOwns_vram_iff, ← ppuOwns_oam_iff, Bool.not_eq_true, ← vramBank_eq]
  refine ⟨fun lo hi => ?_, fun lo hi => ?_, fun hm => ?_⟩
  · have ht := target_of_vram true s lo hi
    refine ⟨fun hown => ?_, fun hown => ?_⟩
    · have hn : target true s a = .nothing := by simpa [hown] using ht
      exact ⟨memRead_of_nothing hn, memWrite_of_nothing v hn⟩
    · have hk := storeCell_eq_some_iff.mpr (by simpa [hown] using ht)
      exact ⟨memRead_of_storeCell hk, memRead_memWrite_of_storeCell v hk⟩
  · have ht := target_of_oam true s lo hi
    refine ⟨fun hown => ?_, fun hown => ?_⟩
    · have hn : target true s a = .nothing := by simpa [hown] using ht
      exact ⟨memRead_of_nothing hn, memWrite_of_nothing v hn⟩
    · have hk := storeCell_eq_some_iff.mpr (by simpa [hown] using ht)
      exact ⟨memRead_of_storeCell hk, memRead_memWrite_of_storeCell v hk⟩
  · have hpal : ppuOwns s .palette = ppuOwns s .vram := by
      rw [Bool.eq_iff_iff, ppuOwns_palette_iff, ppuOwns_vram_iff]
    rw [← hpal, memRead_bcpd hm, memRead_ocpd hm, memWrite_bcpd hm, memWrite_ocpd hm, ← PaletteIndex.bump_eq,
      ← PaletteIndex.bump_eq]
    refine ⟨fun hown => ?_, fun hown => ?_⟩
    · rw [writeBcpd_of_owned v hown, writeOcpd_of_owned v hown, if_pos hown, if_pos hown]
      exact ⟨rfl, rfl, rfl, rfl⟩
    · rw [writeBcpd_of_not_owned v hown, writeOcpd_of_not_owned v hown]
      simp [hown]

end

section
/-! SUPPORT. What the DMA engines copy (20_memory.md R221 to R225; 10_state.md R136, R156): a source that does not show
the places being written is read as it was before the copy. -/

namespace Sys2Proof.Machine

theorem toNat_mkWord (h l : Byte) : (mkWord h l).toNat = 256 * h.toNat + l.toNat := by
  rw [mkWord, BitVec.toNat_append, Nat.shiftLeft_eq, Nat.mul_comm, ← Nat.two_pow_add_eq_or_of_lt l.isLt]

theorem getLsbD_seven (v : Byte) : v.getLsbD 7 = decide (128 ≤ v.toNat) := by
  revert v; decide +kernel

/-! ## Sources that do not show a range of places -/

/-- A DMA read of address a shows none of the places from lo to hi, and no I/O register. -/
def Unseen (s : State) (a : Word) (lo hi : Nat) : Prop :=
  target false s a ≠ .io ∧ ∀ k, (target false s a).place = some k → ¬ (lo ≤ k ∧ k < hi)

/-- The addresses an OAM DMA can read show no byte of OAM (R222). -/
theorem unseen_oam (s : State) {a : Word} (h : a.toNat < 0xE000) : Unseen s a oamBase (oamBase + 160) := by
  have hr := target_inRegion false s a
  rw [unecho_of_not_echo (by omega)] at hr
  simp only [Unseen, oamBase]
  cases ht : target false s a with
  | io => rw [ht] at hr; exact absurd hr.1 (by omega)
  | boot k | rom k =>
    rw [ht] at hr
    refine ⟨nofun, fun j hj => ?_⟩
    cases hj
    have := hr.2
    simp only [bootBase] at this
    omega
  | ram k =>
    rw [ht] at hr
    refine ⟨nofun, fun j hj => ?_⟩
    cases hj
    simp only [Target.InRegion, RamPlace, vramBase, wramBase, cramBase] at hr
    omega
  | nothing | rtc _ | ie => exact ⟨nofun, nofun⟩

/-- An address outside video memory and below the I/O registers shows no byte of VRAM. -/
theorem unseen_vram (s : State) {a : Word} (h : a.toNat < 0x8000 ∨ (0xA000 ≤ a.toNat ∧ a.toNat < 0xFF00)) :
    Unseen s a (vramCell 0 0) (vramCell 2 0) := by
  have hr := target_inRegion false s a
  have hb : (unecho a).toNat < 0x8000 ∨ (0xA000 ≤ (unecho a).toNat ∧ (unecho a).toNat < 0xFF00) := by
    unfold unecho
    split
    · bv_omega
    · exact h
  simp only [Unseen, vramCell, vramBase]
  cases ht : target false s a with
  | io => rw [ht] at hr; exact absurd hr.1 (by omega)
  | boot k | rom k =>
    rw [ht] at hr
    refine ⟨nofun, fun j hj => ?_⟩
    cases hj
    have := hr.2
    simp only [bootBase] at this
    omega
  | ram k =>
    rw [ht] at hr
    refine ⟨nofun, fun j hj => ?_⟩
    cases hj
    simp only [Target.InRegion, RamPlace, vramBase, wramBase, cramBase, oamBase, hramBase] at hr
    omega
  | nothing | rtc _ | ie => exact ⟨nofun, nofun⟩

/-- Such a read is the same in a state that differs in those places, or in what no address map reads. -/
theorem dmaRead_of_unseen {s u : State} {a : Word} {lo hi : Nat} (h : Unseen s a lo hi)
    (ht : target false u a = target false s a) (hmap : u.mapper = s.mapper) (hie : u.irq.ie = s.irq.ie)
    (hm : ∀ j, ¬ (lo ≤ j ∧ j < hi) → u.mem.read j = s.mem.read j) : dmaRead u a = dmaRead s a := by
  obtain ⟨hio, hp⟩ := h
  unfold dmaRead busRead
  rw [ht]
  cases hs : target false s a with
  | boot k | rom k | ram k => exact hm k (hp k (by rw [hs]; rfl))
  | nothing => rfl
  | rtc sel => simp only [hmap]
  | io => exact absurd hs hio
  | ie => exact hie

/-! ## The copy -/

/-- The bytes of a copy whose source does not show its destination. -/
theorem read_hdmaCopyFrom {src : Word} {dst i n lo hi : Nat} {s : State} (hd : lo ≤ dst + i ∧ dst + i + n ≤ hi)
    (hu : ∀ l, i ≤ l → l < i + n → Unseen s (src + BitVec.ofNat 16 l) lo hi) {l : Nat} (hl : i ≤ l)
    (hl' : l < i + n) :
    (hdmaCopyFrom src dst i n s).mem.read (dst + l) = dmaRead s (src + BitVec.ofNat 16 l) := by
  induction n generalizing i s with
  | zero => omega
  | succ n ih =>
    simp only [hdmaCopyFrom]
    by_cases h : l = i
    · subst h
      rw [read_hdmaCopyFrom_of_outside (by omega)]
      exact Memory.read_write_self _ _ _
    · refine (ih (i := i + 1) (s := { s with mem := s.mem.write (dst + i) (dmaRead s (src + BitVec.ofNat 16 i)) })
        (by omega) (fun m hm hm' => hu m (by omega) (by omega)) (by omega) (by omega)).trans ?_
      exact dmaRead_of_unseen (hu l hl hl') rfl rfl rfl fun j hj => Memory.read_write_ne _ _ (by omega)

theorem toNat_dmaPage (v : Byte) : (dmaPage v).toNat = if 0xE0 ≤ v.toNat then v.toNat - 0x20 else v.toNat := by
  revert v; decide +kernel

/-- An OAM DMA copies the 160 bytes of its source page (R221). -/
theorem read_writeDma (s : State) (v : Byte) {i : Nat} (hi : i < 160) :
    (writeDma v s).mem.read (oamBase + i) = dmaRead s (BitVec.ofNat 16 (256 * (dmaPage v).toNat + i)) := by
  have hpage : (dmaPage v).toNat < 0xE0 := by
    rw [toNat_dmaPage]
    have := v.isLt
    split <;> omega
  have haddr : ∀ l < 160, mkWord (dmaPage v) 0 + BitVec.ofNat 16 l = BitVec.ofNat 16 (256 * (dmaPage v).toNat + l) := by
    intro l _
    apply BitVec.eq_of_toNat_eq
    rw [BitVec.toNat_add, toNat_mkWord]
    simp
  have hlow : ∀ l < 160, (mkWord (dmaPage v) 0 + BitVec.ofNat 16 l).toNat < 0xE000 := by
    intro l hl
    rw [haddr l hl, BitVec.toNat_ofNat]
    omega
  rw [writeDma, oamDmaFrom_eq_hdmaCopyFrom,
    read_hdmaCopyFrom (lo := oamBase) (hi := oamBase + 160) (by omega) (fun l _ hl => unseen_oam _ (hlow l (by omega)))
      (Nat.zero_le i) (by omega), ← haddr i hi]
  exact dmaRead_of_unseen (unseen_oam s (hlow i hi)) rfl rfl rfl fun _ _ => rfl

/-! ## HDMA blocks -/

/-- The place of byte i of an HDMA transfer (R225): the destination wraps inside its bank of VRAM. -/
def hdmaDst (s : State) (i : Nat) : Nat := vramCell s.color.vbk.toNat ((s.hdma.dst.toNat / 16 * 16 + i) % 8192)

theorem hdmaDst_of_lt (s : State) {i : Nat} (hi : i < 16) : hdmaDst s i = hdmaPlace s + i := by
  have := s.hdma.dst.isLt
  simp only [hdmaDst, hdmaPlace, vramCell]
  omega

theorem hdmaDst_hdmaBlock (s : State) (i : Nat) : hdmaDst (hdmaBlock s) i = hdmaDst s (i + 16) := by
  have := s.hdma.dst.isLt
  have hdst : (s.hdma.dst + 16).toNat = (s.hdma.dst.toNat + 16) % 8192 := by simp [BitVec.toNat_add]
  rw [hdmaBlock_eq]
  simp only [hdmaDst, vramCell, hdst]
  omega

theorem hdmaDst_inj {s : State} {i j : Nat} (hi : i < 8192) (hj : j < 8192) (h : hdmaDst s i = hdmaDst s j) :
    i = j := by
  simp only [hdmaDst, vramCell] at h
  omega

theorem hdmaBlock_mem (s : State) : (hdmaBlock s).mem = (hdmaCopyFrom s.hdma.src (hdmaPlace s) 0 16 s).mem := by
  simp only [hdmaBlock, hdmaPlace]

/-- One block copies 16 bytes from a source outside video memory. -/
theorem read_hdmaBlock {s : State} {i : Nat} (hi : i < 16)
    (hu : ∀ l, l < 16 → Unseen s (s.hdma.src + BitVec.ofNat 16 l) (vramCell 0 0) (vramCell 2 0)) :
    (hdmaBlock s).mem.read (hdmaDst s i) = dmaRead s (s.hdma.src + BitVec.ofNat 16 i) := by
  have hp := hdmaPlace_bounds s
  rw [hdmaDst_of_lt s hi, hdmaBlock_mem]
  exact read_hdmaCopyFrom (by omega) (fun l _ hl => hu l (by omega)) (Nat.zero_le i) (by omega)

theorem hdmaBlock_src (s : State) : (hdmaBlock s).hdma.src = s.hdma.src + 16 := by rw [hdmaBlock_eq]

/-- A read that shows no VRAM is the same after a block. -/
theorem dmaRead_hdmaBlock {s : State} {a : Word} (h : Unseen s a (vramCell 0 0) (vramCell 2 0)) :
    dmaRead (hdmaBlock s) a = dmaRead s a := by
  have hp := hdmaPlace_bounds s
  refine dmaRead_of_unseen h ?_ ?_ ?_ fun j hj => read_hdmaBlock_of_outside (by omega)
  all_goals rw [hdmaBlock_eq]
  rfl

theorem unseen_hdmaBlock {s : State} {a : Word} {lo hi : Nat} (h : Unseen s a lo hi) :
    Unseen (hdmaBlock s) a lo hi := by
  rw [hdmaBlock_eq]; exact h

/-- n blocks write their 16 * n places only. -/
theorem read_hdmaBlocks_of_ne (n : Nat) {s : State} {j : Nat} (hj : ∀ i, i < 16 * n → j ≠ hdmaDst s i) :
    (repeatN hdmaBlock n s).mem.read j = s.mem.read j := by
  induction n generalizing s with
  | zero => rfl
  | succ n ih =>
    rw [repeatN, ih fun i hi => by rw [hdmaDst_hdmaBlock]; exact hj _ (by omega)]
    refine read_hdmaBlock_of_outside (by_contra fun h => ?_)
    exact hj (j - hdmaPlace s) (by omega) (by rw [hdmaDst_of_lt s (by omega)]; omega)

/-- The bytes n blocks copy, from a source outside video memory. -/
theorem read_hdmaBlocks (n : Nat) {s : State} (hn : 16 * n ≤ 8192)
    (hu : ∀ l, l < 16 * n → Unseen s (s.hdma.src + BitVec.ofNat 16 l) (vramCell 0 0) (vramCell 2 0)) {i : Nat}
    (hi : i < 16 * n) :
    (repeatN hdmaBlock n s).mem.read (hdmaDst s i) = dmaRead s (s.hdma.src + BitVec.ofNat 16 i) := by
  induction n generalizing s i with
  | zero => omega
  | succ n ih =>
    have hsrc : ∀ l, (hdmaBlock s).hdma.src + BitVec.ofNat 16 l = s.hdma.src + BitVec.ofNat 16 (l + 16) := by
      intro l
      rw [hdmaBlock_src]
      bv_omega
    rw [repeatN]
    by_cases h : i < 16
    · rw [read_hdmaBlocks_of_ne n fun j hj he => ?_]
      · exact read_hdmaBlock h fun l hl => hu l (by omega)
      · rw [hdmaDst_hdmaBlock] at he
        have := hdmaDst_inj (by omega) (by omega) he
        omega
    · obtain ⟨m, rfl⟩ : ∃ m, i = m + 16 := ⟨i - 16, by omega⟩
      rw [← hdmaDst_hdmaBlock, ih (by omega) (fun l hl => ?_) (by omega), hsrc]
      · exact dmaRead_hdmaBlock (hu _ hi)
      · rw [hsrc]; exact unseen_hdmaBlock (hu _ (by omega))

/-! ## The registers after a transfer -/

/-- n blocks change memory and advance the four HDMA registers (R225). -/
theorem hdmaBlocks_eq (n : Nat) (s : State) :
    repeatN hdmaBlock n s = { s with
      mem := (repeatN hdmaBlock n s).mem
      hdma := { s.hdma with
        src := s.hdma.src + BitVec.ofNat 16 (16 * n), dst := s.hdma.dst + BitVec.ofNat 13 (16 * n)
        len := s.hdma.len - BitVec.ofNat 7 n } } := by
  induction n generalizing s with
  | zero => simp [repeatN]
  | succ n ih =>
    have hsrc : s.hdma.src + 16 + BitVec.ofNat 16 (16 * n) = s.hdma.src + BitVec.ofNat 16 (16 * (n + 1)) := by bv_omega
    have hdst : s.hdma.dst + 16 + BitVec.ofNat 13 (16 * n) = s.hdma.dst + BitVec.ofNat 13 (16 * (n + 1)) := by bv_omega
    have hlen : s.hdma.len - 1 - BitVec.ofNat 7 n = s.hdma.len - BitVec.ofNat 7 (n + 1) := by bv_omega
    rw [repeatN, ih, hdmaBlock_eq]
    simp only [hsrc, hdst, hlen]

/-- HDMA5 written with bit 7 clear while no transfer is active: n blocks at once (R223). -/
theorem writeHdma5_general {s : State} {v : Byte} (ha : s.hdma.active = false) (hv : v.toNat < 128) :
    writeHdma5 v s = { s with
      mem := (repeatN hdmaBlock (v.toNat % 128 + 1) { s with hdma.len := v.extractLsb' 0 7 }).mem
      hdma := {
        src := BitVec.ofNat 16 (s.hdma.src.toNat + 16 * (v.toNat % 128 + 1))
        dst := BitVec.ofNat 13 (s.hdma.dst.toNat + 16 * (v.toNat % 128 + 1)), len := 0x7F, active := false }
      acct.gdmaCycles := (v.toNat % 128 + 1) * 32 * (if s.cpu.doubleSpeed then 2 else 1) } := by
  have h7 : v.getLsbD 7 = false := by rw [getLsbD_seven]; simpa using hv
  have hlen : (v.extractLsb' 0 7).toNat = v.toNat % 128 := by simp
  have hsrc := fun m => BitVec.eq_of_toNat_eq (x := s.hdma.src + BitVec.ofNat 16 m)
    (y := BitVec.ofNat 16 (s.hdma.src.toNat + m)) (by simp)
  have hdst := fun m => BitVec.eq_of_toNat_eq (x := s.hdma.dst + BitVec.ofNat 13 m)
    (y := BitVec.ofNat 13 (s.hdma.dst.toNat + m)) (by simp)
  have hend : v.extractLsb' 0 7 - BitVec.ofNat 7 (v.toNat % 128 + 1) = 0x7F := by
    apply BitVec.eq_of_toNat_eq
    rw [BitVec.toNat_sub, hlen]
    simp
    omega
  unfold writeHdma5
  simp only [ha, h7, hlen, Bool.false_and, Bool.false_eq_true, if_false]
  rw [hdmaBlocks_eq]
  simp only [hsrc, hdst, Config.hdmaBlockCycles]
  rw [hend]

/-- HDMA5 written with bit 7 clear while a transfer is active stops it (R156). -/
theorem writeHdma5_stop {s : State} {v : Byte} (ha : s.hdma.active = true) (hv : v.toNat < 128) :
    writeHdma5 v s = { s with hdma.active := false } := by
  have h7 : v.getLsbD 7 = false := by rw [getLsbD_seven]; simpa using hv
  simp only [writeHdma5, ha, h7, Bool.not_false, Bool.and_true, if_true]

/-- HDMA5 written with bit 7 set starts an HBlank transfer (R156). -/
theorem writeHdma5_start {s : State} {v : Byte} (hv : 128 ≤ v.toNat) :
    writeHdma5 v s = { s with hdma.active := true, hdma.len := BitVec.ofNat 7 (v.toNat % 128) } := by
  have h7 : v.getLsbD 7 = true := by rw [getLsbD_seven]; simpa using hv
  have hlen : v.extractLsb' 0 7 = BitVec.ofNat 7 (v.toNat % 128) := by
    apply BitVec.eq_of_toNat_eq; simp
  simp only [writeHdma5, h7, Bool.not_true, Bool.and_false, Bool.false_eq_true, if_false, if_true, hlen]

/-- The block of an active HBlank transfer (R224): the transfer ends after the block with LEN 0. -/
theorem hblankHdma_of_active {s : State} (ha : s.hdma.active = true) :
    hblankHdma s = { s with
      mem := (hdmaBlock s).mem
      hdma := {
        src := BitVec.ofNat 16 (s.hdma.src.toNat + 16), dst := BitVec.ofNat 13 (s.hdma.dst.toNat + 16)
        len := BitVec.ofNat 7 (s.hdma.len.toNat + 127), active := decide (s.hdma.len.toNat ≠ 0) } } := by
  have hsrc : s.hdma.src + 16 = BitVec.ofNat 16 (s.hdma.src.toNat + 16) := by bv_omega
  have hdst : s.hdma.dst + 16 = BitVec.ofNat 13 (s.hdma.dst.toNat + 16) := by bv_omega
  have hlen : s.hdma.len - 1 = BitVec.ofNat 7 (s.hdma.len.toNat + 127) := by bv_omega
  have hend : BitVec.ofNat 7 (s.hdma.len.toNat + 127) = 0x7F ↔ s.hdma.len.toNat = 0 := by bv_omega
  unfold hblankHdma
  rw [if_pos ha, hdmaBlock_eq]
  simp only [hsrc, hdst, hlen, hend, ha]
  split
  · next h => simp [h]
  · next h => simp [h]

/-- The source addresses of a transfer that lies outside video memory and below the I/O registers. -/
theorem unseen_source (s : State) {src : Word} {m : Nat}
    (h : src.toNat + m ≤ 0x8000 ∨ (0xA000 ≤ src.toNat ∧ src.toNat + m ≤ 0xFF00)) {l : Nat} (hl : l < m) :
    Unseen s (src + BitVec.ofNat 16 l) (vramCell 0 0) (vramCell 2 0) := by
  have haddr : (src + BitVec.ofNat 16 l).toNat = src.toNat + l := by
    rw [BitVec.toNat_add, BitVec.toNat_ofNat]
    omega
  exact unseen_vram s (by omega)

theorem ofNat_toNat_add (src : Word) (i : Nat) : BitVec.ofNat 16 (src.toNat + i) = src + BitVec.ofNat 16 i := by
  apply BitVec.eq_of_toNat_eq
  simp

/-- Where a visible line enters mode 0, the picture engine hands out a row and runs the HBlank transfer (R1004). -/
theorem ppuDot_entry_eq {s : State} (h : s.ppu.dot = 251 ∧ s.ppu.line < 144) :
    ∃ p vid, (ppuDot s).hdma = (hblankHdma { s with ppu := p, video := vid }).hdma ∧
      (ppuDot s).mem = (hblankHdma { s with ppu := p, video := vid }).mem := by
  rw [ppuDot_of_entry h, enterHblank, statTrigger_eq]
  simp only
  rw [renderLine_eq]
  exact ⟨_, _, rfl, rfl⟩

theorem hblankHdma_of_not_active {s : State} (ha : s.hdma.active = false) : hblankHdma s = s := by
  simp [hblankHdma, ha]

/-- A dot without an HBlank transfer leaves the HDMA registers and memory alone. -/
theorem ppuDot_hdma_mem {s : State} (h : s.hdma.active = false ∨ ¬ (s.ppu.dot = 251 ∧ s.ppu.line < 144)) :
    (ppuDot s).hdma = s.hdma ∧ (ppuDot s).mem = s.mem := by
  by_cases he : s.ppu.dot = 251 ∧ s.ppu.line < 144
  · obtain ⟨p, vid, hhdma, hmem⟩ := ppuDot_entry_eq he
    have ha := h.resolve_right (not_not_intro he)
    rw [hhdma, hmem, hblankHdma_of_not_active (s := { s with ppu := p, video := vid }) ha]
    exact ⟨rfl, rfl⟩
  · rw [ppuDot_of_not_entry he]
    exact ⟨rfl, rfl⟩

theorem memWrite_dma (s : State) (v : Byte) : memWrite s 0xFF46 v = writeDma v s := by
  have hreg : ioReg s.params.mode 0xFF46 = .dma := by cases s.params.mode <;> rfl
  rw [memWrite_of_io s v (by decide) (by decide), ioWrite, hreg]

theorem memWrite_hdma5 {s : State} (hm : s.params.mode = .color) (v : Byte) : memWrite s 0xFF55 v = writeHdma5 v s := by
  rw [memWrite_of_io s v (by decide) (by decide), ioWrite, hm]; rfl

end Sys2Proof.Machine

open Sys2Proof Sys2Proof.Machine

/-- Settles O52: the bytes of a copy whose source does not show its destination (`read_hdmaCopyFrom`), the registers
after blocks (`hdmaBlocks_eq`), and the one dot at which a block is copied (`ppuDot_entry_eq`). -/
theorem dmaTransfers : Obligations.DmaTransfers := by
  intro s v _
  simp only [memRead_unblocked, memWrite_dma, ← toNat_dmaPage]
  refine ⟨⟨fun ha he => ?_, ppuDot_hdma_mem, (unitStep_ppuDot s).acct⟩,
    ⟨writeDma_eq v s, fun i hi => read_writeDma s v hi, fun j hj => read_writeDma_of_outside hj⟩, fun hm => ?_⟩
  · obtain ⟨p, vid, hhdma, hmem⟩ := ppuDot_entry_eq he
    have hdst : ∀ i, i < 16 → vramCell s.color.vbk.toNat (s.hdma.dst.toNat / 16 * 16 + i) =
        hdmaDst { s with ppu := p, video := vid } i := by
      intro i hi
      rw [hdmaDst_of_lt _ hi]
      simp only [hdmaPlace, vramCell]
      omega
    rw [hhdma, hmem, hblankHdma_of_active (s := { s with ppu := p, video := vid }) ha]
    refine ⟨rfl, fun hsrc i hi => ?_, fun j hj => ?_⟩
    · have hu : ∀ l, l < 16 → Unseen s (s.hdma.src + BitVec.ofNat 16 l) (vramCell 0 0) (vramCell 2 0) :=
        fun l hl => unseen_source s hsrc hl
      rw [hdst i hi, ofNat_toNat_add _ i]
      exact (read_hdmaBlock (s := { s with ppu := p, video := vid }) hi hu).trans
        (dmaRead_of_unseen (hu i hi) rfl rfl rfl fun _ _ => rfl)
    · exact read_hdmaBlocks_of_ne 1 (s := { s with ppu := p, video := vid }) fun i hi => by
        rw [← hdst i hi]; exact hj i hi
  · rw [memWrite_hdma5 hm]
    refine ⟨fun ha hv => ?_, writeHdma5_stop, writeHdma5_start⟩
    have hn := Nat.mod_lt v.toNat (show 128 > 0 by decide)
    rw [writeHdma5_general ha hv]
    refine ⟨rfl, fun hsrc i hi => ?_, fun j hj => ?_⟩
    · have hu : ∀ l, l < 16 * (v.toNat % 128 + 1) →
          Unseen s (s.hdma.src + BitVec.ofNat 16 l) (vramCell 0 0) (vramCell 2 0) :=
        fun l hl => unseen_source s (by omega) hl
      rw [ofNat_toNat_add _ i]
      exact (read_hdmaBlocks (v.toNat % 128 + 1) (s := { s with hdma.len := v.extractLsb' 0 7 }) (by omega) hu hi).trans
        (dmaRead_of_unseen (hu i hi) rfl rfl rfl fun _ _ => rfl)
    · exact read_hdmaBlocks_of_ne _ (s := { s with hdma.len := v.extractLsb' 0 7 }) hj

end

section
/-! SUPPORT. The timer over any number of cycles in closed form (60_exceptions.md R940, R941). -/

namespace Sys2Proof.Machine

/-! ## Many increments of TIMA -/

/-- TIMA after n increments: it counts to 255 and starts again from TMA. -/
def timaAfter (tima tma n : Nat) : Nat :=
  if tima + n < 256 then tima + n else tma + (tima + n - 256) % (256 - tma)

theorem timaAfter_succ (tima tma n : Nat) : timaAfter tima tma (n + 1) = timaAfter (tima + 1) tma n := by
  simp only [timaAfter, Nat.add_assoc, Nat.add_comm 1 n]

/-- The increment that overflows reloads TMA. -/
theorem timaAfter_reload {tma : Nat} (h : tma < 256) (n : Nat) : timaAfter 255 tma (n + 1) = timaAfter tma tma n := by
  have hn : 255 + (n + 1) - 256 = n := by omega
  simp only [timaAfter, hn]
  rw [if_neg (by omega)]
  split
  · rw [Nat.mod_eq_of_lt (by omega)]
  · next hge =>
    obtain ⟨k, hk⟩ := Nat.exists_eq_add_of_le (Nat.not_lt.mp hge)
    have hsum : n = (256 - tma) + k := by omega
    rw [hk, Nat.add_sub_cancel_left, hsum, Nat.add_mod_left]

/-- n increments of TIMA, with the request of the first overflow and of any after it (R941). -/
theorem timaIncs_eq (n : Nat) (s : State) :
    repeatN timaInc n s = { s with
      timer.tima := BitVec.ofNat 8 (timaAfter s.timer.tima.toNat s.timer.tma.toNat n)
      irq.iflag := if s.timer.tima.toNat + n < 256 then s.irq.iflag else s.irq.iflag ||| 0b00100 } := by
  have hor : BitVec.twoPow 5 Source.timer.bit = 0b00100 := by decide
  induction n generalizing s with
  | zero =>
    have := s.timer.tima.isLt
    have hlt : s.timer.tima.toNat < 256 := this
    simp [repeatN, timaAfter, hlt]
  | succ n ih =>
    rw [repeatN, ih]
    by_cases h : s.timer.tima = 0xFF
    · have h255 : s.timer.tima.toNat = 255 := by rw [h]; rfl
      have hover : ¬ 255 + (n + 1) < 256 := by omega
      have htma : s.timer.tma.toNat < 256 := s.timer.tma.isLt
      simp only [timaInc, if_pos h, request, hor, h255, timaAfter_reload htma, if_neg hover]
      split
      · rfl
      · rw [BitVec.or_assoc, BitVec.or_self]
    · have hnext : (s.timer.tima + 1).toNat = s.timer.tima.toNat + 1 := by bv_omega
      simp only [timaInc, if_neg h, hnext, timaAfter_succ, Nat.add_assoc, Nat.add_comm 1 n]

/-! ## The cycles that count -/

/-- The period is twice the weight of the divider bit that TIMA watches (R941). -/
theorem timerPeriod_eq (tac : BitVec 3) :
    Spec.timerPeriod tac.toNat = 2 ^ (timerBit (tac.extractLsb' 0 2) + 1) ∧
      timerBit (tac.extractLsb' 0 2) ∈ [9, 3, 5, 7] := by
  revert tac; decide

/-- A bit of the divider falls where the divider passes a multiple of twice its weight. -/
theorem bit_falls_iff (div : Word) {b : Nat} (hb : b ∈ [9, 3, 5, 7]) :
    (div.getLsbD b && !(div + 1).getLsbD b) = decide ((div.toNat + 1) % 2 ^ (b + 1) = 0) := by
  have hdiv := div.isLt
  rw [Bool.eq_iff_iff]
  simp only [List.mem_cons, List.not_mem_nil, or_false] at hb
  rcases hb with rfl | rfl | rfl | rfl
  all_goals
    simp only [BitVec.getLsbD, Nat.testBit_eq_decide_div_mod_eq, BitVec.toNat_add, Bool.and_eq_true,
      Bool.not_eq_true', decide_eq_true_eq, decide_eq_false_iff_not]
    simp
    omega

/-- How often TIMA counts in c cycles. -/
def timaCount (t : Timer) (c : Nat) : Nat :=
  if t.tac.getLsbD 2 then
    (t.div16.toNat + c) / Spec.timerPeriod t.tac.toNat - t.div16.toNat / Spec.timerPeriod t.tac.toNat
  else 0

theorem timerPeriod_mem (tac : BitVec 3) : Spec.timerPeriod tac.toNat ∈ [1024, 16, 64, 256] := by
  revert tac; decide

/-- One cycle counts where the timer is enabled and the divider reaches a multiple of the period. -/
theorem timaCount_one (t : Timer) : timaCount t 1 =
    if t.tac.getLsbD 2 && decide ((t.div16.toNat + 1) % Spec.timerPeriod t.tac.toNat = 0) then 1 else 0 := by
  have hp := timerPeriod_mem t.tac
  simp only [timaCount]
  cases t.tac.getLsbD 2 with
  | false => rfl
  | true =>
    simp only [if_true, Bool.true_and, decide_eq_true_eq]
    simp only [List.mem_cons, List.not_mem_nil, or_false] at hp
    rcases hp with hp | hp | hp | hp <;> rw [hp] <;> split <;> omega

/-- The counts of c + 1 cycles are those of the first and those of the other c: the period divides 2^16, so the
divider's wrap changes nothing. -/
theorem timaCount_succ (t : Timer) (c : Nat) :
    timaCount t (c + 1) = timaCount { t with div16 := t.div16 + 1 } c + timaCount t 1 := by
  have hp := timerPeriod_mem t.tac
  have hdiv := t.div16.isLt
  have hnext : (t.div16 + 1).toNat = (t.div16.toNat + 1) % 65536 := by simp [BitVec.toNat_add]
  simp only [timaCount, hnext]
  split
  · simp only [List.mem_cons, List.not_mem_nil, or_false] at hp
    rcases hp with hp | hp | hp | hp <;> rw [hp] <;> omega
  · rfl

/-- `signal()` falls in the cycles that count (R941). -/
theorem signal_falls (t : Timer) :
    (t.signal && !({ t with div16 := t.div16 + 1 } : Timer).signal) =
      (t.tac.getLsbD 2 && decide ((t.div16.toNat + 1) % Spec.timerPeriod t.tac.toNat = 0)) := by
  obtain ⟨hp, hb⟩ := timerPeriod_eq t.tac
  rw [hp, ← bit_falls_iff t.div16 hb]
  simp only [Timer.signal]
  cases t.tac.getLsbD 2 <;> rfl

/-- One cycle: the divider counts, and TIMA where `signal()` falls. -/
theorem timerTick_eq (s : State) :
    timerTick s = repeatN timaInc (timaCount s.timer 1) { s with timer.div16 := s.timer.div16 + 1 } := by
  simp only [timerTick, signal_falls, timaCount_one]
  split <;> rfl

theorem timaInc_setDiv (s : State) (d : Word) :
    { timaInc s with timer.div16 := d } = timaInc { s with timer.div16 := d } := by
  unfold timaInc
  simp only
  split <;> rfl

theorem timaIncs_setDiv (n : Nat) (s : State) (d : Word) :
    { repeatN timaInc n s with timer.div16 := d } = repeatN timaInc n { s with timer.div16 := d } := by
  induction n generalizing s with
  | zero => rfl
  | succ n ih => rw [repeatN, ih, timaInc_setDiv]; rfl

theorem repeatN_add {α : Type} (f : α → α) (m n : Nat) (x : α) : repeatN f (m + n) x = repeatN f n (repeatN f m x) := by
  induction m generalizing x with
  | zero => simp [repeatN]
  | succ m ih => rw [Nat.add_right_comm, repeatN, ih, repeatN]

/-- The increments change no other field of the timer. -/
theorem timaIncs_timer (n : Nat) (s : State) :
    (repeatN timaInc n s).timer = { s.timer with tima := (repeatN timaInc n s).timer.tima } := by
  rw [timaIncs_eq]

/-- The timer over c cycles: the divider, and TIMA as often as it counts. -/
theorem timerAdvance_eq (c : Nat) (s : State) :
    timerAdvance c s = repeatN timaInc (timaCount s.timer c)
      { s with timer.div16 := BitVec.ofNat 16 (s.timer.div16.toNat + c) } := by
  unfold timerAdvance
  induction c generalizing s with
  | zero =>
    have h0 : timaCount s.timer 0 = 0 := by simp [timaCount]
    simp [h0, repeatN]
  | succ c ih =>
    have hdiv : BitVec.ofNat 16 ((s.timer.div16 + 1).toNat + c) = BitVec.ofNat 16 (s.timer.div16.toNat + (c + 1)) := by
      apply BitVec.eq_of_toNat_eq
      simp [BitVec.toNat_add, Nat.add_comm 1 c, Nat.add_assoc]
    have htimer := timaIncs_timer (timaCount s.timer 1) { s with timer.div16 := s.timer.div16 + 1 }
    have hcount : timaCount (timerTick s).timer c = timaCount { s.timer with div16 := s.timer.div16 + 1 } c := by
      rw [timerTick_eq, htimer]; rfl
    have hnext : (timerTick s).timer.div16 = s.timer.div16 + 1 := by rw [timerTick_eq, htimer]
    rw [repeatN, ih, hcount, hnext, hdiv, timerTick_eq, timaIncs_setDiv, ← repeatN_add, timaCount_succ s.timer c,
      Nat.add_comm (timaCount s.timer 1)]

end Sys2Proof.Machine

open Sys2Proof Sys2Proof.Machine

/-- Settles O54: the timer is the divider's count and an increment of TIMA for every multiple of the period it passes
(`timerAdvance_eq`, by induction on the cycles), and n increments have a closed form (`timaIncs_eq`). -/
theorem timerPeriod : Obligations.TimerPeriod := by
  intro s c
  exact (timerAdvance_eq c s).trans (timaIncs_eq (timaCount s.timer c) _)

end

section
/-! SUPPORT. What each I/O register reads after a write (10_state.md R120 to R161). -/

namespace Sys2Proof.Machine

/-! ## The register at an address -/

/-- A register of both modes. -/
theorem ioReg_both {a : Word} {r : IoReg} (h : ioRegColor (a.toNat % 256) = r) (hr : r.colorOnly = false)
    (mode : HwMode) : ioReg mode a = r := by
  cases mode <;> simp [ioReg, h, hr]

/-- The last address selects IE (R216). -/
theorem target_of_ie (arb : Bool) (s : State) : target arb s 0xFFFF = .ie := by
  have hboot : bootRange s.params.mode 0xFFFF = false := bootRange_of_high (by decide)
  have hecho : unecho 0xFFFF = 0xFFFF := by decide
  simp only [target, hecho, hboot, Bool.false_eq_true, and_false, if_false]
  rfl

theorem memRead_ie (s : State) : memRead s 0xFFFF = s.irq.ie := by simp only [memRead, busRead, target_of_ie]

theorem memWrite_ie (s : State) (v : Byte) : memWrite s 0xFFFF v = { s with irq.ie := v } := by
  simp only [memWrite, target_of_ie]

theorem mode_memWrite {s : State} {mode : HwMode} (hm : s.params.mode = mode) (a : Word) (v : Byte) :
    (memWrite s a v).params.mode = mode := by rw [memWrite_params, hm]

/-- An unmapped address of the register file reads 0xFF and ignores writes (R120). -/
theorem unmapped_io {s : State} {a : Word} (v : Byte) (lo : 0xFF00 ≤ a.toNat) (hi : a.toNat ≤ 0xFF7F)
    (h : ioReg s.params.mode a = .unmapped) : memRead s a = 0xFF ∧ memWrite s a v = s := by
  rw [memRead_of_io s lo hi, memWrite_of_io s v lo hi, ioRead, ioWrite, h]
  exact ⟨rfl, rfl⟩

/-- The unmapped low bytes of both modes (R120), and those of monochrome mode alone (R144). -/
theorem ioRegColor_unmapped : ∀ n < 128, n = 0x03 ∨ (0x08 ≤ n ∧ n ≤ 0x0E) ∨ n = 0x4C ∨ n = 0x4E ∨
    (0x56 ≤ n ∧ n ≤ 0x67) ∨ (0x6C ≤ n ∧ n ≤ 0x6F) ∨ (0x71 ≤ n ∧ n ≤ 0x7F) → ioRegColor n = .unmapped := by
  decide

theorem ioRegColor_colorOnly : ∀ n < 128, n = 0x4D ∨ n = 0x4F ∨ (0x51 ≤ n ∧ n ≤ 0x55) ∨ (0x68 ≤ n ∧ n ≤ 0x6B) ∨
    n = 0x70 → (ioRegColor n).colorOnly = true := by
  decide

theorem ioRegColor_audio : ∀ n < 64, 0x10 ≤ n → ioRegColor n = .audio := by decide

/-! ## The registers that read back what is written -/

@[simp] theorem writeLcdc_lcdc (p : Ppu) (v : Byte) : (p.writeLcdc v).lcdc = v := by
  unfold Ppu.writeLcdc
  simp only
  split
  · rfl
  · split <;> rfl

/-- The registers of eight stored bits whose write does nothing else. -/
def plainRegs : List IoReg := [.sb, .tima, .tma, .scy, .scx, .lyc, .bgp, .obp0, .obp1, .wy, .wx]

theorem memRead_memWrite_of_plain {s : State} {a : Word} (v : Byte) (lo : 0xFF00 ≤ a.toNat) (hi : a.toNat ≤ 0xFF7F)
    (h : ioReg s.params.mode a ∈ plainRegs) : memRead (memWrite s a v) a = v := by
  have hparams : (ioWrite s a v).params = s.params := by rw [← memWrite_of_io s v lo hi, memWrite_params]
  rw [memWrite_of_io s v lo hi, memRead_of_io _ lo hi, ioRead, hparams]
  unfold ioWrite
  generalize ioReg s.params.mode a = r at h
  simp only [plainRegs, List.mem_cons, List.not_mem_nil, or_false] at h
  rcases h with rfl | rfl | rfl | rfl | rfl | rfl | rfl | rfl | rfl | rfl | rfl <;> rfl

/-! ## Reads and writes by address, in both modes -/

section
variable (s : State) (v : Byte)

@[simp] theorem timaInc_div16 : (timaInc s).timer.div16 = s.timer.div16 := by unfold timaInc; split <;> rfl

@[simp] theorem timaInc_tac : (timaInc s).timer.tac = s.timer.tac := by unfold timaInc; split <;> rfl

theorem resetDivider_div16 : (resetDivider s).timer.div16 = 0 := by
  simp only [resetDivider]
  split
  · exact timaInc_div16 _
  · rfl

theorem writeTac_tac : (writeTac v s).timer.tac = v.extractLsb' 0 3 := by
  simp only [writeTac]
  split
  · exact timaInc_tac _
  · rfl

theorem memRead_p1 : memRead s 0xFF00 = readP1 s.joypad := by
  rw [memRead_of_io s (by decide) (by decide), ioRead, ioReg_both (r := .p1) rfl rfl]

theorem memWrite_p1 : memWrite s 0xFF00 v = writeP1 v s := by
  rw [memWrite_of_io s v (by decide) (by decide), ioWrite, ioReg_both (r := .p1) rfl rfl]

theorem memRead_sc : memRead s 0xFF02 = readSc s := by
  rw [memRead_of_io s (by decide) (by decide), ioRead, ioReg_both (r := .sc) rfl rfl]

theorem memRead_div : memRead s 0xFF04 = hiByte s.timer.div16 := by
  rw [memRead_of_io s (by decide) (by decide), ioRead, ioReg_both (r := .div) rfl rfl]

theorem memWrite_div : memWrite s 0xFF04 v = resetDivider s := by
  rw [memWrite_of_io s v (by decide) (by decide), ioWrite, ioReg_both (r := .div) rfl rfl]

theorem memRead_tac : memRead s 0xFF07 = s.timer.tac.setWidth 8 := by
  rw [memRead_of_io s (by decide) (by decide), ioRead, ioReg_both (r := .tac) rfl rfl]

theorem memWrite_tac : memWrite s 0xFF07 v = writeTac v s := by
  rw [memWrite_of_io s v (by decide) (by decide), ioWrite, ioReg_both (r := .tac) rfl rfl]

theorem memRead_iflag : memRead s 0xFF0F = 0xE0 ||| s.irq.iflag.setWidth 8 := by
  rw [memRead_of_io s (by decide) (by decide), ioRead, ioReg_both (r := .iflag) rfl rfl]

theorem memWrite_iflag : memWrite s 0xFF0F v = { s with irq.iflag := v.extractLsb' 0 5 } := by
  rw [memWrite_of_io s v (by decide) (by decide), ioWrite, ioReg_both (r := .iflag) rfl rfl]

theorem memRead_lcdc : memRead s 0xFF40 = s.ppu.lcdc := by
  rw [memRead_of_io s (by decide) (by decide), ioRead, ioReg_both (r := .lcdc) rfl rfl]

theorem memWrite_lcdc : memWrite s 0xFF40 v = { s with ppu := s.ppu.writeLcdc v } := by
  rw [memWrite_of_io s v (by decide) (by decide), ioWrite, ioReg_both (r := .lcdc) rfl rfl]

theorem memRead_stat : memRead s 0xFF41 = s.ppu.readStat := by
  rw [memRead_of_io s (by decide) (by decide), ioRead, ioReg_both (r := .stat) rfl rfl]

theorem memWrite_stat : memWrite s 0xFF41 v = { s with ppu.stat := v.extractLsb' 3 4 } := by
  rw [memWrite_of_io s v (by decide) (by decide), ioWrite, ioReg_both (r := .stat) rfl rfl]

theorem memRead_ly : memRead s 0xFF44 = s.ppu.ly := by
  rw [memRead_of_io s (by decide) (by decide), ioRead, ioReg_both (r := .ly) rfl rfl]

theorem memWrite_ly : memWrite s 0xFF44 v = s := by
  rw [memWrite_of_io s v (by decide) (by decide), ioWrite, ioReg_both (r := .ly) rfl rfl]

theorem memRead_dma : memRead s 0xFF46 = s.dma := by
  rw [memRead_of_io s (by decide) (by decide), ioRead, ioReg_both (r := .dma) rfl rfl]

theorem memRead_boot : memRead s 0xFF50 = 0xFF := by
  rw [memRead_of_io s (by decide) (by decide), ioRead, ioReg_both (r := .boot) rfl rfl]

theorem memWrite_boot : memWrite s 0xFF50 v = if v = 0 then s else { s with bootMapped := false } := by
  rw [memWrite_of_io s v (by decide) (by decide), ioWrite, ioReg_both (r := .boot) rfl rfl]

end

/-! ## Reads and writes by address, in color mode -/

section
variable {s : State} (hm : s.params.mode = .color) (v : Byte)
include hm

theorem memRead_key1 : memRead s 0xFF4D = 0x7E ||| bitAt 8 7 s.cpu.doubleSpeed ||| bitAt 8 0 s.color.key1Armed := by
  rw [memRead_of_io s (by decide) (by decide), ioRead, hm]; rfl

theorem memWrite_key1 : memWrite s 0xFF4D v = { s with color.key1Armed := v.getLsbD 0 } := by
  rw [memWrite_of_io s v (by decide) (by decide), ioWrite, hm]; rfl

theorem memRead_vbk : memRead s 0xFF4F = 0xFE ||| s.color.vbk.setWidth 8 := by
  rw [memRead_of_io s (by decide) (by decide), ioRead, hm]; rfl

theorem memWrite_vbk : memWrite s 0xFF4F v = { s with color.vbk := v.extractLsb' 0 1 } := by
  rw [memWrite_of_io s v (by decide) (by decide), ioWrite, hm]; rfl

theorem memRead_hdma1 : memRead s 0xFF51 = 0xFF := by
  rw [memRead_of_io s (by decide) (by decide), ioRead, hm]; rfl

theorem memWrite_hdma1 : memWrite s 0xFF51 v = { s with hdma.src := mkWord v (loByte s.hdma.src) } := by
  rw [memWrite_of_io s v (by decide) (by decide), ioWrite, hm]; rfl

theorem memRead_hdma2 : memRead s 0xFF52 = 0xFF := by
  rw [memRead_of_io s (by decide) (by decide), ioRead, hm]; rfl

theorem memWrite_hdma2 : memWrite s 0xFF52 v = { s with hdma.src := mkWord (hiByte s.hdma.src) (v &&& 0xF0) } := by
  rw [memWrite_of_io s v (by decide) (by decide), ioWrite, hm]; rfl

theorem memRead_hdma3 : memRead s 0xFF53 = 0xFF := by
  rw [memRead_of_io s (by decide) (by decide), ioRead, hm]; rfl

theorem memWrite_hdma3 :
    memWrite s 0xFF53 v = { s with hdma.dst := v.extractLsb' 0 5 ++ s.hdma.dst.extractLsb' 0 8 } := by
  rw [memWrite_of_io s v (by decide) (by decide), ioWrite, hm]; rfl

theorem memRead_hdma4 : memRead s 0xFF54 = 0xFF := by
  rw [memRead_of_io s (by decide) (by decide), ioRead, hm]; rfl

theorem memWrite_hdma4 : memWrite s 0xFF54 v = { s with hdma.dst := s.hdma.dst.extractLsb' 8 5 ++ (v &&& 0xF0) } := by
  rw [memWrite_of_io s v (by decide) (by decide), ioWrite, hm]; rfl

theorem memRead_hdma5 : memRead s 0xFF55 = bitAt 8 7 (!s.hdma.active) ||| s.hdma.len.setWidth 8 := by
  rw [memRead_of_io s (by decide) (by decide), ioRead, hm]; rfl

theorem memRead_bcps : memRead s 0xFF68 = s.color.bcps.toByte := by
  rw [memRead_of_io s (by decide) (by decide), ioRead, hm]; rfl

theorem memWrite_bcps : memWrite s 0xFF68 v = { s with color.bcps := PaletteIndex.ofByte v } := by
  rw [memWrite_of_io s v (by decide) (by decide), ioWrite, hm]; rfl

theorem memRead_ocps : memRead s 0xFF6A = s.color.ocps.toByte := by
  rw [memRead_of_io s (by decide) (by decide), ioRead, hm]; rfl

theorem memWrite_ocps : memWrite s 0xFF6A v = { s with color.ocps := PaletteIndex.ofByte v } := by
  rw [memWrite_of_io s v (by decide) (by decide), ioWrite, hm]; rfl

theorem memRead_svbk : memRead s 0xFF70 = 0xF8 ||| s.color.svbk.setWidth 8 := by
  rw [memRead_of_io s (by decide) (by decide), ioRead, hm]; rfl

theorem memWrite_svbk : memWrite s 0xFF70 v = { s with color.svbk := v.extractLsb' 0 3 } := by
  rw [memWrite_of_io s v (by decide) (by decide), ioWrite, hm]; rfl

end

/-! ## Bytes as numbers -/

theorem toNat_low_bits (v : Byte) :
    ((v.extractLsb' 0 3).setWidth 8).toNat = v.toNat % 8 ∧
    (0xE0 ||| (v.extractLsb' 0 5).setWidth 8).toNat = 0xE0 + v.toNat % 32 ∧
    (0xFE ||| (v.extractLsb' 0 1).setWidth 8).toNat = 0xFE + v.toNat % 2 ∧
    (0xF8 ||| (v.extractLsb' 0 3).setWidth 8).toNat = 0xF8 + v.toNat % 8 := by
  revert v; decide +kernel

theorem toNat_paletteIndex (v : Byte) :
    (PaletteIndex.ofByte v).toByte.toNat = 0x40 + v.toNat / 128 * 128 + v.toNat % 64 := by
  revert v; decide +kernel

theorem toNat_key1 (fast : Bool) (v : Byte) :
    (0x7E ||| bitAt 8 7 fast ||| bitAt 8 0 (v.getLsbD 0)).toNat = 0x7E + 128 * fast.toNat + v.toNat % 2 := by
  revert fast v; decide +kernel

theorem toNat_hdma5 (active : Bool) (len : BitVec 7) :
    (bitAt 8 7 (!active) ||| len.setWidth 8).toNat = (if active then 0 else 128) + len.toNat := by
  revert active len; decide +kernel

theorem toNat_and_F0 (v : Byte) : (v &&& 0xF0).toNat = v.toNat / 16 * 16 := by
  revert v; decide +kernel

/-! ## The joypad register (R121) -/

/-- A column reads 0 where a pressed button stands in a selected row. -/
theorem toNat_readP1 (j : Joypad) : (readP1 j).toNat = 0xC0 + 32 * j.selAction.toNat + 16 * j.selDir.toNat +
    ((List.range 4).map fun k =>
      if (j.pressed.getLsbD k ∧ j.selDir = false) ∨ (j.pressed.getLsbD (k + 4) ∧ j.selAction = false)
      then 0 else 2 ^ k).sum := by
  obtain ⟨action, dir, pressed⟩ := j
  revert action dir pressed
  decide +kernel

theorem getLsbD_four_five (v : Byte) :
    (v.getLsbD 4 = decide (v.toNat / 16 % 2 = 1)) ∧ (v.getLsbD 5 = decide (v.toNat / 32 % 2 = 1)) := by
  simp [BitVec.getLsbD, Nat.testBit_eq_decide_div_mod_eq]

theorem toNat_p1_after (s : State) (v : Byte) : (memRead (memWrite s 0xFF00 v) 0xFF00).toNat =
    0xC0 + v.toNat / 16 % 4 * 16 + ((List.range 4).map fun k =>
      if (s.joypad.pressed.getLsbD k ∧ v.toNat / 16 % 2 = 0) ∨ (s.joypad.pressed.getLsbD (k + 4) ∧ v.toNat / 32 % 2 = 0)
      then 0 else 2 ^ k).sum := by
  obtain ⟨h4, h5⟩ := getLsbD_four_five v
  have hbits : 32 * (v.getLsbD 5).toNat + 16 * (v.getLsbD 4).toNat = v.toNat / 16 % 4 * 16 := by
    rw [h4, h5]
    rcases Nat.mod_two_eq_zero_or_one (v.toNat / 16) with hd | hd <;>
      rcases Nat.mod_two_eq_zero_or_one (v.toNat / 32) with ha | ha <;> simp [hd, ha] <;> omega
  have hrow : ∀ m, decide (m % 2 = 1) = false ↔ m % 2 = 0 := by intro m; simp
  rw [memRead_p1, memWrite_p1, toNat_readP1, ← hbits]
  simp only [writeP1, h4, h5, hrow, Nat.add_assoc]

/-! ## STAT (R131) -/

/-- The part of STAT that follows the picture: the LY comparison and the mode. -/
def statLow (p : Ppu) : Nat := 4 * (decide (p.ly = p.lyc)).toNat + (if p.lcdOn then p.mode.number else 0).toNat

theorem statLow_lt (p : Ppu) : statLow p < 8 := by
  have hmode : (if p.lcdOn then p.mode.number else 0).toNat < 4 := by cases p.lcdOn <;> cases p.mode <;> decide
  have hc := Bool.toNat_le (decide (p.ly = p.lyc))
  unfold statLow
  omega

theorem toNat_readStat (p : Ppu) : p.readStat.toNat = 0x80 + p.stat.toNat * 8 + statLow p := by
  unfold Ppu.readStat statLow
  generalize decide (p.ly = p.lyc) = c
  generalize p.stat = st
  cases p.lcdOn <;> cases p.mode <;> revert c st <;> decide +kernel

theorem toNat_stat_after (s : State) (v : Byte) : (memRead (memWrite s 0xFF41 v) 0xFF41).toNat =
    0x80 + v.toNat / 8 % 16 * 8 + (memRead s 0xFF41).toNat % 8 := by
  have hst : (v.extractLsb' 3 4).toNat = v.toNat / 8 % 16 := by
    simp [BitVec.extractLsb'_toNat, Nat.shiftRight_eq_div_pow]
  have hlow : statLow { s.ppu with stat := v.extractLsb' 3 4 } = statLow s.ppu := rfl
  have hlt := statLow_lt s.ppu
  rw [memRead_stat, memRead_stat, memWrite_stat, toNat_readStat, toNat_readStat, hlow, hst]
  omega

/-! ## SC (R123) -/

/-- The fields a write of SC stores; the transfer's own state aside. -/
theorem writeSc_fields (v : Byte) (s : State) :
    (writeSc v s).serial.start = v.getLsbD 7 ∧ (writeSc v s).serial.internal = v.getLsbD 0 ∧
    (writeSc v s).serial.fast = (match s.params.mode with | .monochrome => s.serial.fast | .color => v.getLsbD 1) ∧
    (writeSc v s).params = s.params := by
  simp only [writeSc]
  split
  · split <;> exact ⟨rfl, rfl, rfl, rfl⟩
  · exact ⟨rfl, rfl, rfl, rfl⟩

theorem toNat_sc_bits (v : Byte) :
    (0x7E ||| bitAt 8 7 (v.getLsbD 7) ||| bitAt 8 0 (v.getLsbD 0)).toNat = 0x7E + v.toNat / 128 * 128 + v.toNat % 2 ∧
    (0x7C ||| bitAt 8 7 (v.getLsbD 7) ||| bitAt 8 1 (v.getLsbD 1) ||| bitAt 8 0 (v.getLsbD 0)).toNat =
      0x7C + v.toNat / 128 * 128 + v.toNat % 4 := by
  revert v; decide +kernel

theorem toNat_sc_after (s : State) (v : Byte) : (memRead (memWrite s 0xFF02 v) 0xFF02).toNat =
    if s.params.mode = .color then 0x7C + v.toNat / 128 * 128 + v.toNat % 4
    else 0x7E + v.toNat / 128 * 128 + v.toNat % 2 := by
  obtain ⟨hstart, hinternal, hfast, hparams⟩ := writeSc_fields v s
  obtain ⟨hmono, hcolor⟩ := toNat_sc_bits v
  rw [memWrite_sc, memRead_sc, readSc, hparams, hstart, hinternal, hfast]
  cases s.params.mode
  · exact hmono
  · exact hcolor

/-! ## The audio window (R129) -/

theorem audio_window (s : State) (v : Byte) {a : Word} (lo : 0xFF10 ≤ a.toNat) (hi : a.toNat ≤ 0xFF3F) :
    memWrite s a v = { s with audio := .write a v :: s.audio } ∧ memRead s a = audioRead s a := by
  have hreg : ∀ mode, ioReg mode a = .audio := ioReg_both (ioRegColor_audio _ (by omega) (by omega)) rfl
  rw [memWrite_of_io s v (by omega) (by omega), memRead_of_io s (by omega) (by omega), ioWrite, ioRead, hreg]
  exact ⟨rfl, rfl⟩

theorem audio_after {s : State} (v : Byte) {a : Word} (lo : 0xFF10 ≤ a.toNat) (hi : a.toNat ≤ 0xFF3F)
    (href : s.params.audioRead = .reference) : memRead (memWrite s a v) a = v := by
  rw [(audio_window s v lo hi).1, (audio_window _ v lo hi).2, audioRead, href]
  exact if_pos rfl

/-! ## The HDMA registers (R152 to R156) -/

theorem hdma1_eq (src : Word) (v : Byte) :
    mkWord v (loByte src) = BitVec.ofNat 16 (256 * v.toNat + src.toNat % 256) := by
  apply BitVec.eq_of_toNat_eq
  rw [toNat_mkWord, BitVec.toNat_ofNat, loByte, BitVec.extractLsb'_toNat]
  have := v.isLt
  simp
  omega

theorem hdma2_eq (src : Word) (v : Byte) :
    mkWord (hiByte src) (v &&& 0xF0) = BitVec.ofNat 16 (src.toNat / 256 * 256 + v.toNat / 16 * 16) := by
  apply BitVec.eq_of_toNat_eq
  rw [toNat_mkWord, toNat_and_F0, BitVec.toNat_ofNat, hiByte, BitVec.extractLsb'_toNat, Nat.shiftRight_eq_div_pow]
  have := v.isLt
  have := src.isLt
  omega

/-- The destination register from its high and low part. -/
theorem toNat_append_dst (h : BitVec 5) (l : Byte) : (h ++ l).toNat = 256 * h.toNat + l.toNat := by
  rw [BitVec.toNat_append, ← Nat.shiftLeft_add_eq_or_of_lt l.isLt, Nat.shiftLeft_eq, Nat.mul_comm]

theorem hdma3_eq (dst : BitVec 13) (v : Byte) :
    v.extractLsb' 0 5 ++ dst.extractLsb' 0 8 = BitVec.ofNat 13 (v.toNat % 32 * 256 + dst.toNat % 256) := by
  apply BitVec.eq_of_toNat_eq
  rw [toNat_append_dst, BitVec.toNat_ofNat, BitVec.extractLsb'_toNat, BitVec.extractLsb'_toNat]
  simp
  omega

theorem hdma4_eq (dst : BitVec 13) (v : Byte) :
    dst.extractLsb' 8 5 ++ (v &&& 0xF0) = BitVec.ofNat 13 (dst.toNat / 256 * 256 + v.toNat / 16 * 16) := by
  apply BitVec.eq_of_toNat_eq
  rw [toNat_append_dst, toNat_and_F0, BitVec.toNat_ofNat, BitVec.extractLsb'_toNat, Nat.shiftRight_eq_div_pow]
  have := v.isLt
  have := dst.isLt
  omega

theorem toNat_hdma5_after {s : State} (hm : s.params.mode = .color) (v : Byte) :
    (memRead (memWrite s 0xFF55 v) 0xFF55).toNat =
      if 128 ≤ v.toNat then v.toNat - 128 else if s.hdma.active then 128 + s.hdma.len.toNat else 255 := by
  have hv := v.isLt
  rw [memRead_hdma5 (mode_memWrite hm _ v), memWrite_hdma5 hm, toNat_hdma5]
  by_cases h : 128 ≤ v.toNat
  · rw [if_pos h, writeHdma5_start h]
    simp
    omega
  · rw [if_neg h]
    cases ha : s.hdma.active with
    | true =>
      rw [writeHdma5_stop ha (by omega)]
      rfl
    | false =>
      rw [writeHdma5_general ha (by omega)]
      rfl

/-! ## The palette data ports (R158, R160) -/

section
variable {s : State} (hm : s.params.mode = .color) (v : Byte)
include hm

theorem paletteData_of_owned (h : ppuOwns s .palette = true) :
    memRead (memWrite s 0xFF69 v) 0xFF69 = 0xFF ∧ memRead (memWrite s 0xFF6B v) 0xFF6B = 0xFF := by
  rw [memRead_bcpd (mode_memWrite hm _ v), memRead_ocpd (mode_memWrite hm _ v), memWrite_bcpd hm, memWrite_ocpd hm,
    writeBcpd_of_owned v h, writeOcpd_of_owned v h]
  exact ⟨if_pos h, if_pos h⟩

theorem bcpd_of_not_owned (h : ppuOwns s .palette = false) (hi : s.color.bcps.autoInc = false) :
    memRead (memWrite s 0xFF69 v) 0xFF69 = v := by
  have hbump : s.color.bcps.bump = s.color.bcps := by simp [PaletteIndex.bump, hi]
  have hown : ¬ ppuOwns { s with mem := s.mem.write (bgPalBase + s.color.bcps.index.toNat) v } .palette = true := by
    rw [Bool.not_eq_true]; exact h
  rw [memRead_bcpd (mode_memWrite hm _ v), memWrite_bcpd hm, writeBcpd_of_not_owned v h, hbump, if_neg hown]
  exact Memory.read_write_self _ _ _

theorem ocpd_of_not_owned (h : ppuOwns s .palette = false) (hi : s.color.ocps.autoInc = false) :
    memRead (memWrite s 0xFF6B v) 0xFF6B = v := by
  have hbump : s.color.ocps.bump = s.color.ocps := by simp [PaletteIndex.bump, hi]
  have hown : ¬ ppuOwns { s with mem := s.mem.write (objPalBase + s.color.ocps.index.toNat) v } .palette = true := by
    rw [Bool.not_eq_true]; exact h
  rw [memRead_ocpd (mode_memWrite hm _ v), memWrite_ocpd hm, writeOcpd_of_not_owned v h, hbump, if_neg hown]
  exact Memory.read_write_self _ _ _

end

/-! ## The two groups of registers -/

/-- The addresses of the plain registers. -/
def plainAddrs : List Word :=
  [0xFF01, 0xFF05, 0xFF06, 0xFF42, 0xFF43, 0xFF45, 0xFF47, 0xFF48, 0xFF49, 0xFF4A, 0xFF4B]

theorem ioReg_of_plainAddrs (mode : HwMode) {a : Word} (h : a ∈ plainAddrs) :
    (0xFF00 ≤ a.toNat ∧ a.toNat ≤ 0xFF7F) ∧ ioReg mode a ∈ plainRegs := by
  have hall : (plainAddrs.all fun a =>
      decide ((0xFF00 ≤ a.toNat ∧ a.toNat ≤ 0xFF7F) ∧ ioReg mode a ∈ plainRegs)) = true := by
    cases mode <;> decide
  exact of_decide_eq_true (List.all_eq_true.mp hall a h)

theorem memRead_memWrite_byte (s : State) (v : Byte) : ∀ a ∈ [(0xFF01 : Word), 0xFF05, 0xFF06, 0xFF40, 0xFF42, 0xFF43,
    0xFF45, 0xFF46, 0xFF47, 0xFF48, 0xFF49, 0xFF4A, 0xFF4B, 0xFFFF], memRead (memWrite s a v) a = v := by
  intro a ha
  by_cases hlcdc : a = 0xFF40
  · rw [hlcdc, memWrite_lcdc, memRead_lcdc, writeLcdc_lcdc]
  by_cases hdma : a = 0xFF46
  · rw [hdma, memWrite_dma, memRead_dma, writeDma_eq]
  by_cases hie : a = 0xFFFF
  · rw [hie, memWrite_ie, memRead_ie]
  have hmem : a ∈ plainAddrs := by
    simpa only [plainAddrs, List.mem_cons, hlcdc, hdma, hie, List.not_mem_nil, false_or, or_false] using ha
  obtain ⟨⟨lo, hi⟩, hreg⟩ := ioReg_of_plainAddrs s.params.mode hmem
  exact memRead_memWrite_of_plain v lo hi hreg

theorem unmapped_both (s : State) (v : Byte) (a : Word) (h : a = 0xFF03 ∨ (0xFF08 ≤ a.toNat ∧ a.toNat ≤ 0xFF0E) ∨
    a = 0xFF4C ∨ a = 0xFF4E ∨ (0xFF56 ≤ a.toNat ∧ a.toNat ≤ 0xFF67) ∨ (0xFF6C ≤ a.toNat ∧ a.toNat ≤ 0xFF6F) ∨
    (0xFF71 ≤ a.toNat ∧ a.toNat ≤ 0xFF7F)) : memRead s a = 0xFF ∧ memWrite s a v = s := by
  simp only [BitVec.ofNat_eq_ofNat, ← BitVec.toNat_inj, BitVec.toNat_ofNat] at h
  have hreg := ioRegColor_unmapped (a.toNat % 256) (by omega) (by omega)
  exact unmapped_io v (by omega) (by omega) (ioReg_both hreg rfl _)

theorem unmapped_mono {s : State} (hm : s.params.mode = .monochrome) (v : Byte) (a : Word)
    (h : a = 0xFF4D ∨ a = 0xFF4F ∨ (0xFF51 ≤ a.toNat ∧ a.toNat ≤ 0xFF55) ∨ (0xFF68 ≤ a.toNat ∧ a.toNat ≤ 0xFF6B) ∨
      a = 0xFF70) : memRead s a = 0xFF ∧ memWrite s a v = s := by
  simp only [BitVec.ofNat_eq_ofNat, ← BitVec.toNat_inj, BitVec.toNat_ofNat] at h
  have hcolor := ioRegColor_colorOnly (a.toNat % 256) (by omega) (by omega)
  have hreg : ioReg s.params.mode a = .unmapped := by rw [hm, ioReg, hcolor]; rfl
  exact unmapped_io v (by omega) (by omega) hreg

theorem memRead_hdma_writeOnly {s : State} (hm : s.params.mode = .color) :
    ∀ a ∈ [(0xFF51 : Word), 0xFF52, 0xFF53, 0xFF54], memRead s a = 0xFF := by
  intro a ha
  simp only [List.mem_cons, List.not_mem_nil, or_false] at ha
  rcases ha with rfl | rfl | rfl | rfl
  · exact memRead_hdma1 hm
  · exact memRead_hdma2 hm
  · exact memRead_hdma3 hm
  · exact memRead_hdma4 hm

end Sys2Proof.Machine

open Sys2Proof Sys2Proof.Machine

/-- Settles O53: the read and the write of each address by name (`memRead_div` and the others), and the stored fields
of a byte as numbers (`toNat_low_bits` and the others). -/
theorem ioRegisters : Obligations.IoRegisters := by
  intro s v
  dsimp only
  obtain ⟨htac, hiflag, hvbk, hsvbk⟩ := toNat_low_bits v
  refine ⟨fun a ha => congrArg BitVec.toNat (memRead_memWrite_byte s v a ha), ?_, ?_, ?_, toNat_stat_after s v,
    memWrite_ly s v, memRead_ly s, unmapped_both s v, fun a lo hi => ?_, ?_, ?_, toNat_p1_after s v, fun hm => ?_,
    fun hm => ?_⟩
  · simp only [memWrite_div, memRead_div, resetDivider_div16]; rfl
  · simp only [memWrite_tac, memRead_tac, writeTac_tac]; exact htac
  · simp only [memWrite_iflag, memRead_iflag]; exact hiflag
  · exact ⟨(audio_window s v lo hi).1, fun href => congrArg BitVec.toNat (audio_after v lo hi href)⟩
  · rw [memRead_boot]; rfl
  · have hzero : v = 0 ↔ v.toNat = 0 := by bv_omega
    rw [memWrite_boot]
    simp only [hzero]
    split <;> rfl
  · exact ⟨by rw [toNat_sc_after, hm]; rfl, unmapped_mono hm v⟩
  · have howns : (s.params.vramBlocking = true ∧ s.ppu.lcdc.getLsbD 7 = true ∧ s.ppu.mode = .drawing) ↔
        ppuOwns s .palette = true := by rw [ppuOwns_palette_iff, and_assoc]
    have hm' := fun a => mode_memWrite hm a v
    refine ⟨by rw [toNat_sc_after, if_pos hm], ?_, ?_, fun a ha => ?_, ?_, ?_, ?_, ?_, ?_, toNat_hdma5_after hm v, ?_,
      ?_, fun hown => ?_, fun hown hinc => ?_, fun hown hinc => ?_, ?_⟩
    · rw [memRead_key1 (hm' _), memWrite_key1 hm]; exact toNat_key1 s.cpu.doubleSpeed v
    · rw [memRead_vbk (hm' _), memWrite_vbk hm]; exact hvbk
    · exact congrArg BitVec.toNat (memRead_hdma_writeOnly (hm' a) a ha)
    · rw [memWrite_hdma1 hm, hdma1_eq]
    · rw [memWrite_hdma2 hm, hdma2_eq]
    · rw [memWrite_hdma3 hm, hdma3_eq]
    · rw [memWrite_hdma4 hm, hdma4_eq]
    · rw [memRead_hdma5 hm, toNat_hdma5]
    · rw [memRead_bcps (hm' _), memWrite_bcps hm]; exact toNat_paletteIndex v
    · rw [memRead_ocps (hm' _), memWrite_ocps hm]; exact toNat_paletteIndex v
    · obtain ⟨hbg, hobj⟩ := paletteData_of_owned hm v (howns.mp hown)
      exact ⟨congrArg BitVec.toNat hbg, congrArg BitVec.toNat hobj⟩
    · exact congrArg BitVec.toNat (bcpd_of_not_owned hm v (eq_false_of_ne_true (mt howns.mpr hown)) hinc)
    · exact congrArg BitVec.toNat (ocpd_of_not_owned hm v (eq_false_of_ne_true (mt howns.mpr hown)) hinc)
    · rw [memRead_svbk (hm' _), memWrite_svbk hm]; exact hsvbk

end

section
/-! SUPPORT. The machine right after construction (70_initial_state.md R1101 to R1104; 10_state.md R112). -/

namespace Sys2Proof.Machine

/-- A built machine is that of the boot-skip path or that of the boot-ROM path (R1200). -/
theorem built_of_build {image : List Byte} {o : BuildOptions} {draws s : State} (h : build image o draws = .ok s) :
    ∃ mode mapper cart,
      (o.bootSkip = true ∧ s = State.bootSkip (paramsOf mode o) o.divInit cart mapper
        (placeCart (mapper.ramBytes cart) image o.saveRamInit [])) ∨
      (o.bootSkip = false ∧ s = State.bootRom (paramsOf mode o) cart mapper image o draws) := by
  unfold build at h
  split at h
  · cases h
  · simp only at h
    split at h
    · next hskip => exact ⟨_, _, _, .inl ⟨hskip, (Except.ok.inj h).symm⟩⟩
    · next hskip => exact ⟨_, _, _, .inr ⟨eq_false_of_ne_true hskip, (Except.ok.inj h).symm⟩⟩

/-! ## The processor after boot-skip (R112) -/

theorem cpu_bootSkip (mode : HwMode) :
    let c := Cpu.bootSkip mode
    c.sp = 0xFFFE ∧ c.pc = 0x0100 ∧ c.lockOpcode = 0x00 ∧ c.ime = false ∧ c.imeDelay = false ∧ c.halted = false ∧
      c.stopped = false ∧ c.haltBugPending = false ∧ c.locked = false ∧ c.doubleSpeed = false := by
  cases mode <;> decide

theorem flags_bootSkip : (Cpu.bootSkip .monochrome).f.toByte = 0xB0 ∧ (Cpu.bootSkip .color).f.toByte = 0x80 := by
  decide

/-! ## The I/O registers after boot-skip -/

/-- The rows of R1102 that the register file gives without reading memory: all but BCPD, OCPD and IE. -/
def bootSkipRows : List (Word × Byte × Byte) :=
  [(0xFF00, 0xCF, 0xCF), (0xFF01, 0x00, 0x00), (0xFF02, 0x7E, 0x7F), (0xFF04, 0xAB, 0xAB), (0xFF05, 0x00, 0x00),
    (0xFF06, 0x00, 0x00), (0xFF07, 0x00, 0x00), (0xFF0F, 0xE1, 0xE1), (0xFF26, 0xF1, 0xF1), (0xFF40, 0x91, 0x91),
    (0xFF41, 0x86, 0x86), (0xFF42, 0x00, 0x00), (0xFF43, 0x00, 0x00), (0xFF44, 0x00, 0x00), (0xFF45, 0x00, 0x00),
    (0xFF46, 0xFF, 0xFF), (0xFF47, 0xFC, 0xFC), (0xFF48, 0xFF, 0xFF), (0xFF49, 0xFF, 0xFF), (0xFF4A, 0x00, 0x00),
    (0xFF4B, 0x00, 0x00), (0xFF4D, 0xFF, 0x7E), (0xFF4F, 0xFF, 0xFE), (0xFF50, 0xFF, 0xFF), (0xFF51, 0xFF, 0xFF),
    (0xFF52, 0xFF, 0xFF), (0xFF53, 0xFF, 0xFF), (0xFF54, 0xFF, 0xFF), (0xFF55, 0xFF, 0xFF), (0xFF68, 0xFF, 0x40),
    (0xFF6A, 0xFF, 0x40), (0xFF70, 0xFF, 0xF8)]

/-- The machine of the boot-skip path with every parameter at its default and nothing in its memories. -/
def plainBootSkip (mode : HwMode) : State := State.bootSkip (Params.default mode) 0xABCC ⟨2, 0, 0⟩ .noMapper []

/-- Of the register file, only the palette data ports show more of a machine than its mode and its reads of the audio
window. -/
theorem ioRead_bootSkip {p : Params} (cart : Cart) (mapper : Mapper) (mem : Memory) (href : p.audioRead = .reference)
    {a : Word} (hbg : ioReg p.mode a ≠ .bcpd) (hobj : ioReg p.mode a ≠ .ocpd) :
    ioRead true (State.bootSkip p 0xABCC cart mapper mem) a = ioRead true (plainBootSkip p.mode) a := by
  have haudio : audioRead (State.bootSkip p 0xABCC cart mapper mem) a = audioRead (plainBootSkip p.mode) a := by
    simp only [audioRead, State.bootSkip, href]; rfl
  generalize hr : ioReg p.mode a = r at hbg hobj
  have hleft : ioReg (State.bootSkip p 0xABCC cart mapper mem).params.mode a = r := hr
  have hright : ioReg (plainBootSkip p.mode).params.mode a = r := hr
  rw [ioRead, ioRead, hleft, hright]
  cases r
  case audio => exact haudio
  case bcpd => exact absurd rfl hbg
  case ocpd => exact absurd rfl hobj
  all_goals rfl

theorem ioRead_plainBootSkip (mode : HwMode) : (bootSkipRows.all fun row =>
    decide ((0xFF00 ≤ row.1.toNat ∧ row.1.toNat ≤ 0xFF7F) ∧ ioReg mode row.1 ≠ .bcpd ∧ ioReg mode row.1 ≠ .ocpd ∧
      ioRead true (plainBootSkip mode) row.1 = if mode = .monochrome then row.2.1 else row.2.2)) = true := by
  cases mode <;> decide +kernel

/-- The cartridge lies past the palettes: they keep what no store has written (R171). -/
theorem read_placeCart_of_lt (n : Nat) (image init : List Byte) {k : Nat} (hk : k < cramBase) :
    (placeCart n image init []).read k = Memory.unlisted k := by
  have hbases : cramBase < romBase := by decide
  rw [placeCart, Memory.read_writeList, if_neg (by omega), Memory.read_writeList, if_neg (by omega), Memory.read_nil]

/-- The palette data ports read 0xFF, owned or not. -/
theorem memRead_paletteData_bootSkip (p : Params) (cart : Cart) (mapper : Mapper) (n : Nat) (image init : List Byte) :
    memRead (State.bootSkip p 0xABCC cart mapper (placeCart n image init [])) 0xFF69 = 0xFF ∧
    memRead (State.bootSkip p 0xABCC cart mapper (placeCart n image init [])) 0xFF6B = 0xFF := by
  cases hm : p.mode with
  | monochrome =>
    exact ⟨(unmapped_mono hm 0 0xFF69 (by decide)).1, (unmapped_mono hm 0 0xFF6B (by decide)).1⟩
  | color =>
    have hbg : (placeCart n image init []).read (bgPalBase + 0) = 0xFF :=
      read_placeCart_of_lt n image init (by decide)
    have hobj : (placeCart n image init []).read (objPalBase + 0) = 0xFF :=
      read_placeCart_of_lt n image init (by decide)
    rw [memRead_bcpd hm, memRead_ocpd hm]
    exact ⟨by split; exacts [rfl, hbg], by split; exacts [rfl, hobj]⟩

/-- A row of R1102 that the register file gives. -/
theorem memRead_bootSkip {p : Params} (cart : Cart) (mapper : Mapper) (mem : Memory) (href : p.audioRead = .reference)
    {a : Word} {x y : Byte} (h : (a, x, y) ∈ bootSkipRows) :
    memRead (State.bootSkip p 0xABCC cart mapper mem) a = if p.mode = .monochrome then x else y := by
  obtain ⟨⟨lo, hi⟩, hbg, hobj, hread⟩ := of_decide_eq_true (List.all_eq_true.mp (ioRead_plainBootSkip p.mode) _ h)
  rw [memRead_of_io _ lo hi, ioRead_bootSkip cart mapper mem href hbg hobj, hread]

end Sys2Proof.Machine

open Sys2Proof Sys2Proof.Machine

/-- Settles O60: the two machines a build can answer (`built_of_build`); after boot-skip the register file reads as that
of the machine with default parameters (`ioRead_bootSkip`), the palette data ports apart. -/
theorem afterConstruction : Obligations.AfterConstruction := by
  intro image o draws s h
  obtain ⟨mode, mapper, cart, ⟨hskip, rfl⟩ | ⟨hskip, rfl⟩⟩ := built_of_build h
  · obtain ⟨hsp, hpc, hlock, hime, hdelay, hhalted, hstopped, hbug, hlocked, hspeed⟩ := cpu_bootSkip mode
    refine ⟨fun _ => ⟨fun hm => ?_, fun hm => ?_, hsp, hpc, hlock⟩,
      fun hboot => absurd (hskip.symm.trans hboot) (by decide), hime, hdelay, hhalted, hstopped, hbug, hlocked, hspeed, fun _ hdiv href a x y hrow => ?_⟩
    · have hmode : mode = .monochrome := hm
      subst hmode
      exact ⟨rfl, flags_bootSkip.1, rfl, rfl, rfl, rfl, rfl, rfl⟩
    · have hmode : mode = .color := hm
      subst hmode
      exact ⟨rfl, flags_bootSkip.2, rfl, rfl, rfl, rfl, rfl, rfl⟩
    · obtain ⟨hbg, hobj⟩ := memRead_paletteData_bootSkip (paramsOf mode o) cart mapper (mapper.ramBytes cart) image
        o.saveRamInit
      rw [hdiv]
      by_cases hrbg : (a, x, y) = ((0xFF69, 0xFF, 0xFF) : Word × Byte × Byte)
      · cases hrbg; rw [hbg, ite_self]
      by_cases hrobj : (a, x, y) = ((0xFF6B, 0xFF, 0xFF) : Word × Byte × Byte)
      · cases hrobj; rw [hobj, ite_self]
      by_cases hrie : (a, x, y) = ((0xFFFF, 0x00, 0x00) : Word × Byte × Byte)
      · cases hrie; rw [memRead_ie, ite_self]; rfl
      have hrest : (a, x, y) ∈ bootSkipRows := by
        simpa only [bootSkipRows, List.mem_cons, hrbg, hrobj, hrie, List.not_mem_nil, false_or, or_false] using hrow
      exact memRead_bootSkip cart mapper _ href hrest
  · exact ⟨fun hboot => absurd (hskip.symm.trans hboot) (by decide), fun _ => ⟨rfl, rfl, rfl⟩, rfl, rfl, rfl, rfl,
      rfl, rfl, rfl, fun hboot => absurd (hskip.symm.trans hboot) (by decide)⟩

end

section
/-! SUPPORT. The echo region and the region of no unit (20_memory.md R211, R213), and a step that executes (46_system.md
R860). -/

namespace Sys2Proof.Machine

/-! ## The echo region and the region of no unit -/

/-- An echo address selects what the address 0x2000 below selects (R211). -/
theorem target_of_echo (arb : Bool) (s : State) {a : Word} (lo : 0xE000 ≤ a.toNat) (hi : a.toNat ≤ 0xFDFF) :
    target arb s a = target arb s (a - 0x2000) := by
  have hecho : unecho a = unecho (a - 0x2000) := by
    rw [unecho_of_not_echo (a := a - 0x2000) (by bv_omega)]
    exact if_pos ⟨lo, hi⟩
  unfold target
  rw [hecho]

/-- An echo address selects a byte of WRAM (R211). -/
theorem target_of_echo_ram (arb : Bool) (s : State) {a : Word} (lo : 0xE000 ≤ a.toNat) (hi : a.toNat ≤ 0xFDFF) :
    ∃ k, target arb s a = .ram k := by
  have hunecho : (unecho a).toNat = a.toNat - 0x2000 := by
    rw [unecho, if_pos ⟨lo, hi⟩]
    bv_omega
  have hboot : bootRange s.params.mode (unecho a) = false := bootRange_of_high (by omega)
  simp only [target, hboot, hunecho, Bool.false_eq_true, and_false, if_false]
  rw [if_neg (by omega), if_neg (by omega), if_neg (by omega)]
  split
  · exact ⟨_, rfl⟩
  · rw [if_pos (by omega)]
    exact ⟨_, rfl⟩

/-- 0xFEA0 to 0xFEFF belongs to no unit (R213). -/
theorem target_of_unusable (arb : Bool) (s : State) {a : Word} (lo : 0xFEA0 ≤ a.toNat) (hi : a.toNat ≤ 0xFEFF) :
    target arb s a = .nothing := by
  have hecho : unecho a = a := unecho_of_not_echo (by omega)
  have hboot : bootRange s.params.mode a = false := bootRange_of_high (by omega)
  simp only [target, hecho, hboot, Bool.false_eq_true, and_false, if_false]
  repeat rw [if_neg (by omega)]
  rw [if_pos hi]

/-! ## A step that executes -/

/-- Three bytes decode to the instruction the step's decoder makes of them. -/
theorem decode3_of_decode {op b1 b2 : Byte} {i : Instr} {rest : List Byte}
    (h : decode [op, b1, b2] = .ok (i, rest)) : decode3 op b1 b2 = i := by
  simp only [decode] at h
  split at h
  · cases h
  · cases h
    rfl

/-- The bytes a step fetches are those of `Spec.window`. -/
theorem window_eq (s : State) :
    Spec.window s = [(fetchWindow s).1, (fetchWindow s).2.1, (fetchWindow s).2.2] := by
  unfold Spec.window fetchWindow
  simp only
  split <;> rfl

/-- The instruction a step runs is the one the fetched bytes decode to. -/
theorem fetched_of_decode {s : State} {i : Instr} {rest : List Byte} (h : decode (Spec.window s) = .ok (i, rest)) :
    fetched (wake (beginStep s)) = i := by
  rw [window_eq] at h
  exact decode3_of_decode h

/-- It runs in the state `Spec.ready` (R500, R859). -/
theorem afterFetch_eq_ready (i : Instr) (s : State) :
    afterFetch i (wake (beginStep s)) = Spec.ready s (encode i).length := rfl

theorem endOfStep_eq (s t : State) : Spec.endOfStep s t = eiDelay s.cpu.imeDelay t := by
  simp only [Spec.endOfStep, eiDelay, Bool.and_eq_true]

/-- A step that executes ends with EI's delay and the advance of the units (R856, R860). -/
theorem step_of_execute {s t : State} (h : stepKind s = .execute)
    (he : exec (fetched (wake (beginStep s)))
      (afterFetch (fetched (wake (beginStep s))) (wake (beginStep s))) = .next t) :
    step s = .next (advanceUnits s.cpu.doubleSpeed (eiDelay s.cpu.imeDelay t)) := by
  simp [step, cpuStep, stepKind_beginStep, h, runInstr, he, finishInstr, finishStep]

end Sys2Proof.Machine

open Sys2Proof Sys2Proof.Machine

/-- Settles O48: an echo address selects the byte of WRAM that the address 0x2000 below selects (`target_of_echo`), and
an address of 0xFEA0 to 0xFEFF nothing. -/
theorem echoAndUnusable : Obligations.EchoAndUnusable := by
  intro s a v
  refine ⟨fun lo hi => ?_, fun lo hi => ?_⟩
  · obtain ⟨k, hk⟩ := target_of_echo_ram true s lo hi
    have hlow : target true s (a - 0x2000) = .ram k := (target_of_echo true s lo hi).symm.trans hk
    simp only [memRead, busRead, memWrite, hk, hlow, and_self]
  · have hnothing := target_of_unusable true s lo hi
    exact ⟨memRead_of_nothing hnothing, memWrite_of_nothing v hnothing⟩

/-- Settles O31: the decoder of a list of bytes and the step's own decoder agree on the three fetched bytes
(`fetched_of_decode`), and every instruction has a next state (`exec_runs`). -/
theorem stepRunsDecoded : Obligations.StepRunsDecoded := by
  intro s i rest hs hdecode
  obtain ⟨t, ht, -⟩ := exec_runs i (Spec.ready s (encode i).length)
  refine ⟨t, ht, ?_⟩
  have hfetched := fetched_of_decode hdecode
  rw [endOfStep_eq]
  refine step_of_execute ((executes_iff s).mp hs) ?_
  rw [hfetched, afterFetch_eq_ready]
  exact ht

end

section
/-! SUPPORT. Which addresses an instruction stores to, and what a read sees after stores to RAM and after STOP
(20_memory.md R205, R226, R227). -/

namespace Sys2Proof.Machine

/-! ## Stores in order -/

/-- The writes of a list of bytes at their addresses, in order. -/
def storeAll (s : State) : List (Word × Byte) → State
  | [] => s
  | (a, v) :: rest => storeAll (memWrite s a v) rest

theorem storeAll_cpu (s : State) (l : List (Word × Byte)) : (storeAll s l).cpu = s.cpu := by
  induction l generalizing s with
  | nil => rfl
  | cons p rest ih => exact (ih _).trans (memWrite_cpu s p.1 p.2)

/-- Where every store is to RAM, an address that shows none of the stored bytes reads as before. -/
theorem memRead_storeAll {s : State} {l : List (Word × Byte)} (hc : CartLegal s.cart)
    (hram : ∀ p ∈ l, (storeCell s p.1).isSome) {b : Word} (hb : ∀ p ∈ l, storeCell s b ≠ storeCell s p.1) :
    memRead (storeAll s l) b = memRead s b := by
  induction l generalizing s with
  | nil => rfl
  | cons p rest ih =>
    obtain ⟨a, v⟩ := p
    obtain ⟨k, hk⟩ := Option.isSome_iff_exists.mp (hram (a, v) (.head _))
    have hne : storeCell s b ≠ some k := hk ▸ hb (a, v) (.head _)
    have hfirst : memRead (memWrite s a v) b = memRead s b := ((memoryWrite s a v hc).1 k hk).2.2 b hne
    have hcell : ∀ c, storeCell (memWrite s a v) c = storeCell s c := by
      rw [memWrite_of_storeCell hk]; exact storeCell_mem s _
    refine (ih ?_ ?_ ?_).trans hfirst
    · rwa [memWrite_cart]
    · intro p hp; rw [hcell]; exact hram p (.tail _ hp)
    · intro p hp; rw [hcell, hcell]; exact hb p (.tail _ hp)

/-! ## The stores of an instruction -/

/-- The outcome r is the stores to the addresses `as` from s, with a change of the processor and the cycles. -/
def StoresAt (as : List Word) (s : State) (r : Result) : Prop :=
  ∃ l x n, l.map Prod.fst = as ∧ r = .next { storeAll s l with cpu := x, acct.cycles := n }

/-- The pairs and the high page by the numbers of `Spec.storedAt` (R101, R520). -/
theorem mkWord_eq (h l : Byte) : mkWord h l = BitVec.ofNat 16 (256 * h.toNat + l.toNat) := by
  apply BitVec.eq_of_toNat_eq
  have := (mkWord h l).isLt
  rw [toNat_mkWord] at this
  rw [toNat_mkWord, BitVec.toNat_ofNat, Nat.mod_eq_of_lt this]

theorem highPage_eq (n : Byte) : highPage n = Spec.page n := by
  simp only [highPage, zext16, Spec.page]
  bv_omega

/-- HALT changes the processor only (R852). -/
theorem halt_eq (s : State) : halt s = { s with cpu := (halt s).cpu } := by
  unfold halt
  split
  · rfl
  · rfl

theorem holds_eq (s : State) (cc : Cond) : Spec.holds s cc = s.cpu.f.cond cc := by
  cases cc <;> simp [Spec.holds, Flags.cond]

section
variable {s t : State} {as : List Word}

/-- No store. -/
theorem StoresAt.zero (x : Cpu) (n : Nat) (ht : t = { s with cpu := x }) : StoresAt [] s (done n t) :=
  ⟨[], x, n, rfl, by rw [ht]; rfl⟩

/-- One store. -/
theorem StoresAt.one {a a' : Word} (v : Byte) (x : Cpu) (n : Nat) (ha : a = a')
    (ht : t = { memWrite s a v with cpu := x }) : StoresAt [a'] s (done n t) :=
  ⟨[(a, v)], x, n, congrArg (fun c => [c]) ha, by rw [ht]; rfl⟩

/-- The two stores of a push (R35). -/
theorem StoresAt.push (v : Word) (x : Cpu) (n : Nat) (ht : t = { push16 v s with cpu := x }) :
    StoresAt [s.cpu.sp - 1, s.cpu.sp - 2] s (done n t) :=
  ⟨[(s.cpu.sp - 1, hiByte v), (s.cpu.sp - 2, loByte v)], x, n, rfl, by rw [ht, push16_eq]; rfl⟩

theorem StoresAt.cbShift (y : Oct) (operand : Option Reg8) :
    StoresAt (Spec.storedAt (decodeShift y operand) s) s (execCbShift y operand s) := by
  match y, operand with
  | .o0, some _ | .o1, some _ | .o2, some _ | .o3, some _ | .o4, some _ | .o5, some _ | .o6, some _ | .o7, some _ =>
    exact .zero _ _ rfl
  | .o0, none | .o1, none | .o2, none | .o3, none | .o4, none | .o5, none | .o6, none | .o7, none =>
    exact .one _ _ _ (mkWord_eq _ _) rfl

theorem StoresAt.prefixCb (op2 : Byte) : StoresAt (Spec.storedAt (decodeCb op2) s) s (execPrefixCb op2 s) := by
  unfold execPrefixCb decodeCb
  generalize (fieldX op2).toNat = x
  generalize reg8OfField (fieldZ op2) = operand
  match x, operand with
  | 0, operand => exact .cbShift _ operand
  | 1, some _ | 2, some _ | _ + 3, some _ | 1, none => exact .zero _ _ rfl
  | 2, none | _ + 3, none => exact .one _ _ _ (mkWord_eq _ _) rfl

/-- Both outcomes of a condition store to the same addresses. -/
theorem StoresAt.ite {r r' : Result} {c : Prop} [Decidable c] (h : StoresAt as s r) (h' : StoresAt as s r') :
    StoresAt as s (if c then r else r') := by
  split
  · exact h
  · exact h'

/-- CALL cc,nn pushes where its condition holds (R806). -/
theorem StoresAt.callCcNn (cc : Cond) (nn : Word) :
    StoresAt (if Spec.holds s cc then [s.cpu.sp - 1, s.cpu.sp - 2] else []) s (execCallCcNn cc nn s) := by
  rw [holds_eq, execCallCcNn]
  split
  · exact .push _ _ _ rfl
  · exact .zero _ _ rfl

end

/-- Every instruction but STOP stores to the addresses of `Spec.storedAt`, and besides changes the processor and the
cycles only. -/
theorem exec_storesAt {i : Instr} (hi : ∀ x, i ≠ .stop x) (s : State) :
    StoresAt (Spec.storedAt (Spec.form i) s) s (exec i s) := by
  match i with
  | .stop x => exact absurd rfl (hi x)
  | .prefixCb op2 => exact .prefixCb op2
  | .ldAtBcA | .ldAtDeA | .ldAtHlIncA | .ldAtHlDecA | .ldAtHlR _ | .ldAtHlN _ | .incAtHl | .decAtHl | .rlcAtHl
  | .rrcAtHl | .rlAtHl | .rrAtHl | .slaAtHl | .sraAtHl | .swapAtHl | .srlAtHl | .resBAtHl _ | .setBAtHl _ =>
    exact .one _ _ _ (mkWord_eq _ _) rfl
  | .ldAtNnA _ => exact .one _ _ _ rfl rfl
  | .ldhAtNA _ | .ldhAtCA => exact .one _ _ _ (highPage_eq _) rfl
  | .ldAtNnSp nn => exact ⟨[(nn, loByte s.cpu.sp), (nn + 1, hiByte s.cpu.sp)], _, _, rfl, rfl⟩
  | .pushQq _ | .callNn _ | .rstT _ => exact .push _ _ _ rfl
  | .callCcNn cc nn => exact .callCcNn cc nn
  | .jpCcNn _ _ | .jrCcE _ _ | .retCc _ => exact .ite (.zero _ _ rfl) (.zero _ _ rfl)
  | .halt => exact .zero (halt s).cpu 4 (halt_eq s)
  | .nop | .ldDdNn _ _ | .incDd _ | .decDd _ | .ldAAtHlInc | .ldAAtHlDec | .ldRR _ _ | .ldRN _ _ | .ldRAtHl _
  | .resBR _ _ | .setBR _ _ | .ldAAtBc | .ldAAtDe | .ldAAtNn _ | .ldhAAtC | .ldhAAtN _ | .incR _ | .decR _ | .addAR _
  | .addAAtHl | .addAN _ | .adcAR _ | .adcAAtHl | .adcAN _ | .subR _ | .subAtHl | .subN _ | .sbcAR _ | .sbcAAtHl
  | .sbcAN _ | .andR _ | .andAtHl | .andN _ | .xorR _ | .xorAtHl | .xorN _ | .orR _ | .orAtHl | .orN _ | .cpR _
  | .cpAtHl | .cpN _ | .daa | .cpl | .scf | .ccf | .bitBR _ _ | .bitBAtHl _ | .rlca | .rrca | .rla | .rra | .rlcR _
  | .rrcR _ | .rlR _ | .rrR _ | .slaR _ | .sraR _ | .swapR _ | .srlR _ | .addHlDd _ | .ldHlSpE _ | .addSpE _ | .ldSpHl
  | .popQq _ | .popAf | .jpNn _ | .jpHl | .jrE _ | .ret | .reti | .di | .ei | .illegalD3 | .illegalDB | .illegalDD
  | .illegalE3 | .illegalE4 | .illegalEB | .illegalEC | .illegalED | .illegalF4 | .illegalFC | .illegalFD =>
    exact .zero _ _ rfl

/-! ## STOP -/

/-- The reset of the divider changes DIV, TIMA and IF only (R942). -/
theorem resetDivider_eq (s : State) : resetDivider s = { s with
    timer.div16 := 0, timer.tima := (resetDivider s).timer.tima, irq.iflag := (resetDivider s).irq.iflag } := by
  unfold resetDivider timaInc
  simp only
  split
  · split <;> rfl
  · rfl

/-- The registers that STOP changes, at their addresses (R120). -/
theorem address_of_stopReg {mode : HwMode} {a : Word} (h : ioReg mode a ∈ [.div, .tima, .iflag, .key1])
    (ha : 0xFF00 ≤ a.toNat ∧ a.toNat ≤ 0xFF7F) : a ∈ [(0xFF04 : Word), 0xFF05, 0xFF0F, 0xFF4D] := by
  have hmap : ∀ n < 128, ∀ mode, ioReg mode (BitVec.ofNat 16 (0xFF00 + n)) ∈ [.div, .tima, .iflag, .key1] →
      BitVec.ofNat 16 (0xFF00 + n) ∈ [(0xFF04 : Word), 0xFF05, 0xFF0F, 0xFF4D] := by
    intro n hn mode
    cases mode <;> revert n <;> decide
  have haddr : a = BitVec.ofNat 16 (0xFF00 + (a.toNat - 0xFF00)) := by
    rw [Nat.add_sub_cancel' ha.1, BitVec.ofNat_toNat, BitVec.setWidth_eq]
  rw [haddr] at h ⊢
  exact hmap _ (by omega) mode h

/-- A read elsewhere sees none of DIV, TIMA, IF, DOUBLE_SPEED and KEY1.ARMED. -/
theorem memRead_of_stopChanges (s : State) (x : Cpu) (div : Word) (tima : Byte) (iflag : BitVec 5) (armed : Bool)
    {b : Word} (hb : b ∉ [(0xFF04 : Word), 0xFF05, 0xFF0F, 0xFF4D]) :
    memRead { s with
      cpu := x, timer.div16 := div, timer.tima := tima, irq.iflag := iflag, color.key1Armed := armed } b =
        memRead s b := by
  have ht : target true { s with
      cpu := x, timer.div16 := div, timer.tima := tima, irq.iflag := iflag, color.key1Armed := armed } b =
        target true s b := rfl
  unfold memRead busRead
  rw [ht]
  cases htarget : target true s b with
  | io =>
    have hreg := fun hr => hb (address_of_stopReg (mode := s.params.mode) hr (io_of_target htarget))
    unfold ioRead
    cases hr : ioReg s.params.mode b with
    | div | tima | iflag | key1 => exact absurd (by rw [hr]; decide) hreg
    | _ => rfl
  | _ => rfl

theorem memRead_of_exec_stop {x : Byte} {s t : State} (h : exec (.stop x) s = .next t) {b : Word}
    (hb : b ∉ [(0xFF04 : Word), 0xFF05, 0xFF0F, 0xFF4D]) : memRead t b = memRead s b := by
  change execStop x s = .next t at h
  unfold execStop at h
  split at h
  · cases h
    rw [speedSwitch, resetDivider_eq]
    exact memRead_of_stopChanges s _ _ _ _ _ hb
  · cases h
    rw [stopCpu, resetDivider_eq]
    exact memRead_of_stopChanges s _ _ _ _ s.color.key1Armed hb

/-- An instruction that stores to RAM, or nowhere, leaves what every other address reads. -/
theorem memRead_of_exec {i : Instr} {s t : State} (hi : ∀ x, i ≠ .stop x) (h : exec i s = .next t)
    (hc : CartLegal s.cart) (hram : ∀ a ∈ Spec.storedAt (Spec.form i) s, (storeCell s a).isSome) {b : Word}
    (hb : ∀ a ∈ Spec.storedAt (Spec.form i) s, storeCell s b ≠ storeCell s a) : memRead t b = memRead s b := by
  have hspeed := ((executed_of_exec h).stopped_eq hi).2
  obtain ⟨l, x, n, hl, hr⟩ := exec_storesAt hi s
  rw [h] at hr
  cases hr
  simp only [← hl, List.forall_mem_map] at hram hb
  rw [← memRead_storeAll hc hram hb]
  exact busRead_setCpu true { storeAll s l with acct.cycles := n } x (by rw [storeAll_cpu]; exact hspeed) b

end Sys2Proof.Machine

open Sys2Proof Sys2Proof.Machine

/-- Settles O42: every instruction but STOP is its stores and a change of the processor (`exec_storesAt`), a store to
RAM shows at the addresses of its byte only (`memRead_storeAll`), and STOP's changes in four I/O registers
(`memRead_of_exec_stop`). -/
theorem storeFrame : Obligations.StoreFrame := by
  intro i s t hc h
  refine ⟨fun hram b hb hstop => ?_, fun hnone hi => ?_⟩
  · by_cases hi : ∃ x, i = .stop x
    · obtain ⟨x, rfl⟩ := hi
      exact memRead_of_exec_stop h (hstop ⟨x, rfl⟩)
    · exact memRead_of_exec (fun x hx => hi ⟨x, hx⟩) h hc hram hb
  · obtain ⟨l, x, n, hl, hr⟩ := exec_storesAt hi s
    rw [hnone, List.map_eq_nil_iff] at hl
    rw [h] at hr
    cases hr
    rw [hl]
    rfl

end

section
/-! SUPPORT. What the advance of the units changes of the registers software writes and of memory (20_memory.md R224,
R234). -/

namespace Sys2Proof.Machine

/-! ## The frame of a unit -/

/-- q has the registers of p that software writes; its position and window counters are its own (R130 to R141). -/
def Ppu.SameRegs (p q : Ppu) : Prop :=
  q = { p with line := q.line, dot := q.dot, mode := q.mode, winLine := q.winLine, winSeen := q.winSeen }

theorem Ppu.SameRegs.trans {p q r : Ppu} (h : p.SameRegs q) (k : q.SameRegs r) : p.SameRegs r := by
  unfold Ppu.SameRegs at *
  rw [k, h]

/-- What picture engine, timer and serial port leave alone besides `UnitStep`: memory changes only in VRAM, by an
active HBlank transfer. The mapper is the clock's part of the advance (`Mapper.advance_eq`). -/
structure UnitFrame (s t : State) : Prop where
  dma : t.dma = s.dma
  color : t.color = s.color
  bootMapped : t.bootMapped = s.bootMapped
  mapper : t.mapper = s.mapper
  tma : t.timer.tma = s.timer.tma
  tac : t.timer.tac = s.timer.tac
  fast : t.serial.fast = s.serial.fast
  internal : t.serial.internal = s.serial.internal
  ppu : s.ppu.SameRegs t.ppu
  inactive : s.hdma.active = false → t.mem = s.mem ∧ t.hdma = s.hdma
  vram : ∀ j, t.mem.read j ≠ s.mem.read j → vramCell 0 0 ≤ j ∧ j < vramCell 2 0

theorem UnitFrame.trans {s t u : State} (h : UnitFrame s t) (k : UnitFrame t u) : UnitFrame s u where
  dma := k.dma.trans h.dma
  color := k.color.trans h.color
  bootMapped := k.bootMapped.trans h.bootMapped
  mapper := k.mapper.trans h.mapper
  tma := k.tma.trans h.tma
  tac := k.tac.trans h.tac
  fast := k.fast.trans h.fast
  internal := k.internal.trans h.internal
  ppu := h.ppu.trans k.ppu
  inactive ha := by
    obtain ⟨hmem, hhdma⟩ := h.inactive ha
    rw [← hmem, ← hhdma]
    exact k.inactive (hhdma ▸ ha)
  vram j hj := by
    by_cases ht : t.mem.read j = s.mem.read j
    · exact k.vram j (ht ▸ hj)
    · exact h.vram j ht

/-- The picture engine's position, IF and the rows handed out. -/
theorem UnitFrame.position (s : State) (p : Ppu) (x : Irq) (rows : List VideoRow) (hp : s.ppu.SameRegs p) :
    UnitFrame s { s with ppu := p, irq := x, video := rows } :=
  ⟨rfl, rfl, rfl, rfl, rfl, rfl, rfl, rfl, hp, fun _ => ⟨rfl, rfl⟩, fun _ hj => absurd rfl hj⟩

/-- DIV, TIMA and IF. -/
theorem UnitFrame.count (s : State) (div : Word) (tima : Byte) (x : Irq) :
    UnitFrame s { s with timer.div16 := div, timer.tima := tima, irq := x } :=
  ⟨rfl, rfl, rfl, rfl, rfl, rfl, rfl, rfl, rfl, fun _ => ⟨rfl, rfl⟩, fun _ hj => absurd rfl hj⟩

/-- The serial port but for SC.FAST and SC.INTERNAL, and IF. -/
theorem UnitFrame.port (s : State) (p : Serial) (x : Irq) (hf : p.fast = s.serial.fast)
    (hi : p.internal = s.serial.internal) : UnitFrame s { s with serial := p, irq := x } :=
  ⟨rfl, rfl, rfl, rfl, rfl, rfl, hf, hi, rfl, fun _ => ⟨rfl, rfl⟩, fun _ hj => absurd rfl hj⟩

/-- An active transfer: the block it writes lies in VRAM (R225). -/
theorem UnitFrame.hdmaBlock {s : State} (ha : s.hdma.active = true) (x : Hdma) :
    UnitFrame s { hdmaBlock s with hdma := x } := by
  have hvram (j : Nat) (hj : (Machine.hdmaBlock s).mem.read j ≠ s.mem.read j) :
      vramCell 0 0 ≤ j ∧ j < vramCell 2 0 := by
    have hp := hdmaPlace_bounds s
    by_contra hout
    exact hj (read_hdmaBlock_of_outside (by omega))
  rw [hdmaBlock_eq]
  exact ⟨rfl, rfl, rfl, rfl, rfl, rfl, rfl, rfl, rfl, fun h => absurd (ha.symm.trans h) (by decide), hvram⟩

/-! ## The units -/

theorem UnitFrame.refl (s : State) : UnitFrame s s := .position s s.ppu s.irq s.video rfl

theorem UnitFrame.repeatN {f : State → State} (h : ∀ s, UnitFrame s (f s)) (n : Nat) (s : State) :
    UnitFrame s (repeatN f n s) := by
  induction n generalizing s with
  | zero => exact .refl s
  | succ n ih => exact (h s).trans (ih _)

theorem UnitFrame.statTrigger (k : Nat) (s : State) : UnitFrame s (statTrigger k s) := by
  rw [statTrigger_eq]
  exact .position s s.ppu _ s.video rfl

theorem UnitFrame.hblankHdma (s : State) : UnitFrame s (hblankHdma s) := by
  cases ha : s.hdma.active with
  | false => rw [hblankHdma_of_not_active ha]; exact .refl s
  | true =>
    simp only [Machine.hblankHdma, ha, if_true]
    split
    · exact .hdmaBlock ha _
    · exact .hdmaBlock ha (Machine.hdmaBlock s).hdma

theorem sameRegs_enterLine (s : State) : s.ppu.SameRegs (enterLine s).ppu := by
  unfold enterLine
  split
  · rw [statTrigger_ppu]; rfl
  · split
    · simp only [statTrigger_ppu]
      split
      · rfl
      · rfl
    · rfl

theorem sameRegs_nextLine (s : State) : s.ppu.SameRegs (nextLine s).ppu := by
  unfold nextLine
  rw [lycTrigger_eq]
  exact Ppu.SameRegs.trans (q := { s.ppu with dot := 0, line := (s.ppu.line + 1) % 154 }) rfl (sameRegs_enterLine _)

theorem UnitFrame.ppuDot (s : State) : UnitFrame s (ppuDot s) := by
  by_cases h : s.ppu.dot = 251 ∧ s.ppu.line < 144
  · rw [ppuDot_of_entry h]
    have hline : UnitFrame s (renderLine s.ppu.line { s with ppu.dot := 252, ppu.mode := .hblank }) := by
      rw [renderLine_eq]
      exact .position s _ s.irq _ rfl
    exact hline.trans ((UnitFrame.hblankHdma _).trans (.statTrigger _ _))
  · have hregs : s.ppu.SameRegs (Machine.ppuDot s).ppu := by
      unfold Machine.ppuDot
      simp only
      split
      · split <;> rfl
      · split
        · rw [if_neg (by omega)]; rfl
        · split
          · exact Ppu.SameRegs.trans (q := { s.ppu with dot := s.ppu.dot + 1 }) rfl (sameRegs_nextLine _)
          · rfl
    rw [ppuDot_of_not_entry h]
    exact .position s _ _ s.video hregs

theorem UnitFrame.ppuAdvance (d : Nat) (s : State) : UnitFrame s (ppuAdvance d s) := by
  unfold Machine.ppuAdvance
  split
  · exact .repeatN UnitFrame.ppuDot d s
  · exact .refl s

theorem UnitFrame.timerAdvance (c : Nat) (s : State) : UnitFrame s (timerAdvance c s) := by
  rw [timerAdvance_eq, timaIncs_eq]
  exact .count s _ _ _

theorem UnitFrame.serialAfter (k : Nat) (s : State) : UnitFrame s (serialAfter k s) := by
  unfold Machine.serialAfter
  split
  · exact .port s _ _ rfl rfl
  · exact .port s _ s.irq rfl rfl

theorem UnitFrame.serialAdvance (c : Nat) (s : State) : UnitFrame s (serialAdvance c s) := by
  rcases Nat.eq_zero_or_pos s.serial.bits with hb | hb
  · rw [serialAdvance_idle c hb]
    exact .refl s
  · rw [serialAdvance_eq c hb]
    exact (UnitFrame.port s { s.serial with clk := s.serial.clk + c } s.irq rfl rfl).trans (.serialAfter _ _)

/-! ## All of them -/

/-- The clock's advance changes the live clock and RTC_SUB only (R334). -/
theorem Mapper.advance_eq (d : Nat) (m : Mapper) : m.advance d = Spec.withLiveClock m (m.advance d) := by
  cases m with
  | noMapper | variantA r => rfl
  | variantB r =>
    simp only [Mapper.advance, Spec.withLiveClock, rtcAdvance]
    split
    · rfl
    · rfl

theorem UnitFrame.units (c d : Nat) (s : State) :
    UnitFrame s (Machine.serialAdvance c (Machine.timerAdvance c (Machine.ppuAdvance d s))) :=
  ((UnitFrame.ppuAdvance d s).trans (.timerAdvance c _)).trans (.serialAdvance c _)

/-- After picture engine, timer and serial port only the clock, the audio sink and the account advance (R234). -/
theorem advanceUnits_eq (ds : Bool) (s : State) : ∃ u d, UnitFrame s u ∧ advanceUnits ds s =
    { u with mapper := u.mapper.advance d, audio := .advance d :: u.audio, acct.normalCycles := d } :=
  ⟨_, _, .units _ _ s, rfl⟩

theorem unitFrame_advanceUnits (ds : Bool) (s : State) : UnitFrame s { advanceUnits ds s with mapper := s.mapper } := by
  obtain ⟨u, d, h, hu⟩ := advanceUnits_eq ds s
  rw [hu]
  exact ⟨h.dma, h.color, h.bootMapped, rfl, h.tma, h.tac, h.fast, h.internal, h.ppu, h.inactive, h.vram⟩

theorem advanceUnits_mapper (ds : Bool) (s : State) :
    (advanceUnits ds s).mapper = Spec.withLiveClock s.mapper (advanceUnits ds s).mapper := by
  obtain ⟨u, d, h, hu⟩ := advanceUnits_eq ds s
  rw [hu, ← h.mapper]
  exact Mapper.advance_eq d u.mapper

theorem advanceUnits_joypad (ds : Bool) (s : State) : (advanceUnits ds s).joypad = s.joypad :=
  (unitStep_advance _ _ s).joypad

theorem advanceUnits_cart (ds : Bool) (s : State) : (advanceUnits ds s).cart = s.cart := (unitStep_advance _ _ s).cart

/-- The same as `advanceUnits_iflag`, bit by bit. -/
theorem advanceUnits_iflag_getLsbD (ds : Bool) (s : State) {k : Nat} (hk : s.irq.iflag.getLsbD k = true) :
    (advanceUnits ds s).irq.iflag.getLsbD k = true := by
  have := congrArg (BitVec.getLsbD · k) (advanceUnits_iflag ds s)
  simpa only [BitVec.getLsbD_and, hk, Bool.true_and] using this

end Sys2Proof.Machine

open Sys2Proof Sys2Proof.Machine

/-- Settles O35: the frame of each unit (`UnitFrame`), composed along the advance; the clock changes the live clock
and RTC_SUB only (`Mapper.advance_eq`). -/
theorem unitsLeaveProcessorAlone : Obligations.UnitsLeaveProcessorAlone := by
  intro ds s
  have h := unitFrame_advanceUnits ds s
  exact ⟨advanceUnits_cpu ds s, advanceUnits_params ds s, advanceUnits_ie ds s,
    fun _ => advanceUnits_iflag_getLsbD ds s, advanceUnits_joypad ds s, h.dma, h.color, h.bootMapped,
    advanceUnits_cart ds s, advanceUnits_carry ds s, advanceUnits_frameCalled ds s, advanceUnits_mapper ds s, h.tma,
    h.tac, h.fast, h.internal, h.ppu, h.inactive, h.vram⟩

end

section
/-! SUPPORT. The clock of variant B over any number of cycles in closed form (25_cartridge.md R330, R334). -/

namespace Sys2Proof.Machine

/-! ## One second -/

/-- The time of day is legal: no register is past its last value (R334). -/
structure RtcRegs.Legal (r : RtcRegs) : Prop where
  seconds : r.s.toNat < 60
  minutes : r.m.toNat < 60
  hours : r.h.toNat < 24

/-- 512 days are 44236800 seconds. -/
theorem RtcRegs.Legal.clockSeconds_lt {r : RtcRegs} (h : r.Legal) : Spec.clockSeconds r < 44236800 := by
  obtain ⟨hs, hm, hh⟩ := h
  have hday := r.dl.isLt
  have hhigh := r.dayHigh.toNat_le
  unfold Spec.clockSeconds
  omega

/-- The registers u are the registers r n seconds later. -/
structure RtcRegs.Later (n : Nat) (r u : RtcRegs) : Prop where
  halt : u.halt = r.halt
  legal : u.Legal
  seconds : Spec.clockSeconds u = (Spec.clockSeconds r + n) % 44236800
  dayCarry : u.dayCarry = (r.dayCarry || decide (44236800 ≤ Spec.clockSeconds r + n))

/-- Later within the 512 days. -/
theorem RtcRegs.Later.of_not_wrapped {n : Nat} {r u : RtcRegs} (hu : u.Legal) (hhalt : u.halt = r.halt)
    (hcarry : u.dayCarry = r.dayCarry) (h : Spec.clockSeconds u = Spec.clockSeconds r + n) : RtcRegs.Later n r u := by
  have hlt := hu.clockSeconds_lt
  refine ⟨hhalt, hu, by omega, ?_⟩
  rw [hcarry, decide_eq_false (by omega), Bool.or_false]

theorem RtcRegs.Later.refl {r : RtcRegs} (h : r.Legal) : RtcRegs.Later 0 r r := .of_not_wrapped h rfl rfl rfl

theorem RtcRegs.Later.trans {m n : Nat} {r u w : RtcRegs} (h : RtcRegs.Later m r u) (k : RtcRegs.Later n u w) :
    RtcRegs.Later (m + n) r w := by
  refine ⟨k.halt.trans h.halt, k.legal, ?_, ?_⟩
  · rw [k.seconds, h.seconds]; omega
  · rw [k.dayCarry, h.dayCarry, h.seconds, Bool.or_assoc, ← Bool.decide_or]
    congr 2
    exact propext (by omega)

/-- The step of the day counter at the end of the last second of a day (R334). -/
theorem RtcRegs.nextDay_later {r : RtcRegs} (hs : r.s.toNat = 59) (hm : r.m.toNat = 59) (hh : r.h.toNat = 23) :
    RtcRegs.Later 1 r (RtcRegs.nextDay { r with s := 0, m := 0, h := 0 }) := by
  have hlow := r.dl.isLt
  have hhigh : (if r.dayHigh then 256 else 0) = 256 * r.dayHigh.toNat := by cases r.dayHigh <;> rfl
  have hle := r.dayHigh.toNat_le
  unfold RtcRegs.nextDay
  simp only [hhigh]
  split
  · next hday =>
    have htotal : Spec.clockSeconds r + 1 = 44236800 := by unfold Spec.clockSeconds; omega
    refine ⟨rfl, ⟨by simp, by simp, by simp⟩, ?_, ?_⟩
    · rw [htotal]; simp [Spec.clockSeconds]
    · rw [htotal]; simp
  · next hday =>
    refine .of_not_wrapped ⟨by simp, by simp, by simp⟩ rfl rfl ?_
    have hnew : (decide (256 * r.dayHigh.toNat + r.dl.toNat + 1 ≥ 256)).toNat =
        (256 * r.dayHigh.toNat + r.dl.toNat + 1) / 256 := by
      by_cases hc : 256 * r.dayHigh.toNat + r.dl.toNat + 1 ≥ 256
      · rw [decide_eq_true hc, Bool.toNat_true]; omega
      · rw [decide_eq_false hc, Bool.toNat_false]; omega
    simp only [Spec.clockSeconds, hnew, hs, hm, hh, BitVec.ofNat_eq_ofNat, BitVec.toNat_ofNat]
    omega

theorem RtcRegs.tick_later {r : RtcRegs} (h : r.Legal) : RtcRegs.Later 1 r r.tick := by
  obtain ⟨hs, hm, hh⟩ := h
  have hzero : (0 : BitVec 6).toNat = 0 := rfl
  have hsec : (r.s + 1).toNat = r.s.toNat + 1 := by bv_omega
  have hmin : (r.m + 1).toNat = r.m.toNat + 1 := by bv_omega
  have hhour : (r.h + 1).toNat = r.h.toNat + 1 := by bv_omega
  unfold RtcRegs.tick
  simp only
  split
  · next hs' =>
    refine .of_not_wrapped ⟨by simp only; bv_omega, hm, hh⟩ rfl rfl ?_
    simp only [Spec.clockSeconds, hsec]
    omega
  · next hs' =>
    have hs59 : r.s.toNat = 59 := by bv_omega
    split
    · next hm' =>
      refine .of_not_wrapped ⟨by simp, by simp only; bv_omega, hh⟩ rfl rfl ?_
      simp only [Spec.clockSeconds, hmin, hs59, hzero]
      omega
    · next hm' =>
      have hm59 : r.m.toNat = 59 := by bv_omega
      split
      · next hh' =>
        refine .of_not_wrapped ⟨by simp, by simp, by simp only; bv_omega⟩ rfl rfl ?_
        simp only [Spec.clockSeconds, hhour, hs59, hm59, hzero]
        omega
      · next hh' => exact nextDay_later hs59 hm59 (by bv_omega)

/-! ## Many seconds -/

theorem RtcRegs.ticks_later (n : Nat) {r : RtcRegs} (h : r.Legal) : RtcRegs.Later n r (repeatN RtcRegs.tick n r) := by
  induction n generalizing r with
  | zero => exact .refl h
  | succ n ih =>
    have hone := tick_later h
    rw [repeatN, Nat.add_comm]
    exact hone.trans (ih hone.legal)

theorem rtcAdvance_of_halted {r : Rtc} (d : Nat) (h : r.live.halt = true) : rtcAdvance d r = r := if_pos h

theorem rtcAdvance_of_running {r : Rtc} (d : Nat) (h : r.live.halt = false) : rtcAdvance d r = { r with
    live := repeatN RtcRegs.tick ((r.sub + d) / 4194304) r.live, sub := (r.sub + d) % 4194304 } :=
  if_neg (by simp [h])

end Sys2Proof.Machine

open Sys2Proof Sys2Proof.Machine

/-- Settles O58: a halted clock does not advance, and a running one ticks once for every whole second in its sum; the
ticks have a closed form (`RtcRegs.ticks_later`, by induction on their number). -/
theorem clockAdds : Obligations.ClockAdds := by
  intro r d
  refine ⟨rtcAdvance_of_halted d, fun hrun hs hm hh => ?_⟩
  rw [rtcAdvance_of_running d hrun]
  have hlater := RtcRegs.ticks_later ((r.sub + d) / 4194304) (r := r.live) ⟨hs, hm, hh⟩
  exact ⟨rfl, rfl, hlater.halt.trans hrun, hlater.legal.seconds, hlater.legal.minutes, hlater.legal.hours,
    hlater.seconds, hlater.dayCarry⟩

end

section
/-! SUPPORT. Which images the builder accepts (25_cartridge.md R303, R304; 80_host_interface.md R1201). -/

namespace Sys2Proof.Machine

/-! ## The header -/

/-- A number of an image's header. -/
def headerNumber (image : List Byte) (i : Nat) : Nat := (image.getD i 0).toNat

theorem imageByte_toNat (image : List Byte) (i : Nat) : (imageByte image i).toNat = headerNumber image i := rfl

/-- CART_TYPE selects a variant or none (R303). -/
theorem selectVariant_cases (t : Byte) :
    (t.toNat ∉ [0x00, 0x01, 0x02, 0x03, 0x0F, 0x10, 0x11, 0x12, 0x13] ∧ selectVariant t = none) ∨
    (t.toNat = 0 ∧ selectVariant t = some .noMapper) ∨
    (t.toNat ∈ [0x01, 0x02, 0x03] ∧ selectVariant t = some (.variantA VariantA.initial)) ∨
    (t.toNat ∈ [0x0F, 0x10, 0x11, 0x12, 0x13] ∧ selectVariant t = some (.variantB VariantB.initial)) := by
  unfold selectVariant
  split
  · next h => exact .inr (.inl ⟨by rw [h]; rfl, rfl⟩)
  split
  · next h => exact .inr (.inr (.inl ⟨h, rfl⟩))
  split
  · next h => exact .inr (.inr (.inr ⟨h, rfl⟩))
  · next h0 hA hB =>
    refine .inl ⟨fun hmem => ?_, rfl⟩
    rcases List.mem_cons.mp hmem with h | h
    · exact h0 (BitVec.eq_of_toNat_eq h)
    · exact (List.mem_append (s := [0x01, 0x02, 0x03]).mp h).elim hA hB

theorem romBanks_cartOf (romSize ramSize : Byte) : (cartOf romSize ramSize).romBanks = 2 * 2 ^ romSize.toNat :=
  Nat.shiftLeft_eq _ _

theorem ramBanks_cartOf (romSize : Byte) {ramSize : Byte} (h : ramSize.toNat ≤ 0x05) :
    (cartOf romSize ramSize).ramBanks = [0, 1, 1, 4, 16, 8].getD ramSize.toNat 0 := by
  unfold cartOf ramBanksOf
  dsimp only
  generalize ramSize.toNat = n at h ⊢
  match n, h with
  | 0, _ | 1, _ | 2, _ | 3, _ | 4, _ | 5, _ => rfl
  | n + 6, h => omega

/-! ## The conditions of R304 -/

/-- The conditions of R304 on the bank counts, by CART_TYPE. -/
def BadLayout (cartType roms rams : Nat) : Prop :=
  (cartType = 0 ∧ roms ≠ 2) ∨
  (cartType ∈ [0x01, 0x02, 0x03] ∧ (128 < roms ∨ 4 < rams)) ∨
  (cartType ∈ [0x0F, 0x10, 0x11, 0x12, 0x13] ∧ (128 < roms ∨ 8 < rams))

/-- R304 rejects the image. -/
def RejectedImage (image : List Byte) : Prop :=
  image.length < 0x150 ∨
  headerNumber image 0x147 ∉ [0x00, 0x01, 0x02, 0x03, 0x0F, 0x10, 0x11, 0x12, 0x13] ∨
  0x08 < headerNumber image 0x148 ∨ 0x05 < headerNumber image 0x149 ∨
  image.length ≠ 2 * 2 ^ headerNumber image 0x148 * 16384 ∨
  BadLayout (headerNumber image 0x147) (2 * 2 ^ headerNumber image 0x148)
    ([0, 1, 1, 4, 16, 8].getD (headerNumber image 0x149) 0)

theorem layoutOk_iff {t : Byte} {m : Mapper} (h : selectVariant t = some m) (c : Cart) :
    layoutOk m c = true ↔ ¬ BadLayout t.toNat c.romBanks c.ramBanks := by
  unfold BadLayout
  simp only [List.mem_cons, List.not_mem_nil, or_false]
  rcases selectVariant_cases t with ⟨-, hs⟩ | ⟨ht, hs⟩ | ⟨ht, hs⟩ | ⟨ht, hs⟩
  · exact absurd (hs.symm.trans h) (by simp)
  all_goals
    cases Option.some.inj (hs.symm.trans h)
    simp only [layoutOk, decide_eq_true_eq]
  · omega
  all_goals
    simp only [List.mem_cons, List.not_mem_nil, or_false] at ht
    omega

theorem selectVariant_eq_none_iff (t : Byte) :
    selectVariant t = none ↔ t.toNat ∉ [0x00, 0x01, 0x02, 0x03, 0x0F, 0x10, 0x11, 0x12, 0x13] := by
  have hsub : ∀ l : List Nat, l ⊆ [0x00, 0x01, 0x02, 0x03, 0x0F, 0x10, 0x11, 0x12, 0x13] → t.toNat ∈ l →
      t.toNat ∈ [0x00, 0x01, 0x02, 0x03, 0x0F, 0x10, 0x11, 0x12, 0x13] := fun _ hl h => hl h
  rcases selectVariant_cases t with ⟨ht, hs⟩ | ⟨ht, hs⟩ | ⟨ht, hs⟩ | ⟨ht, hs⟩
  · simp only [hs, ht, not_false_iff]
  · simp [hs, ht]
  · simp only [hs, hsub _ (by decide) ht, reduceCtorEq, not_true_eq_false]
  · simp only [hs, hsub _ (by decide) ht, reduceCtorEq, not_true_eq_false]

/-- The builder answers a mapper where no condition of R304 holds, and only there. -/
theorem makeMapper_ok_iff (image : List Byte) : (∃ x, makeMapper image = .ok x) ↔ ¬ RejectedImage image := by
  unfold makeMapper RejectedImage
  simp only [not_or, ← imageByte_toNat, ← selectVariant_eq_none_iff]
  split
  · next hlen => simp [hlen]
  next hlen =>
  split
  · next hnone => simp [hnone]
  next m hm =>
  rw [romBanks_cartOf]
  by_cases hram : 0x05 < (imageByte image 0x149).toNat
  · split
    · simp [hram]
    · simp [hram]
  have hlayout := layoutOk_iff hm (cartOf (imageByte image 0x148) (imageByte image 0x149))
  rw [romBanks_cartOf, ramBanks_cartOf _ (Nat.le_of_not_lt hram)] at hlayout
  rw [← hlayout]
  -- The conditions of R304 one at a time, in the order in which they are tested.
  split_ifs <;> simp_all

/-! ## The mode -/

theorem selectMode_eq (flag : Byte) (o : Option HwMode) :
    selectMode flag o =
      if flag.toNat < 128 then .monochrome else if flag.toNat = 0xC0 then .color else o.getD .color := by
  have hcolor : flag = 0xC0 ↔ flag.toNat = 0xC0 := BitVec.toNat_inj.symm
  have hlow : flag.getLsbD 7 = false ↔ flag.toNat < 128 := by rw [getLsbD_seven]; simp
  simp only [selectMode, hcolor, hlow]

/-! ## The machine -/

theorem build_of_error {image : List Byte} {e : BuildError} (o : BuildOptions) (draws : State)
    (h : makeMapper image = .error e) : build image o draws = .error e := by
  simp only [build, h]

/-- A built machine runs in the mode of R1201 on either path. -/
theorem build_of_ok {image : List Byte} {x : Mapper × Cart} (o : BuildOptions) (draws : State)
    (h : makeMapper image = .ok x) :
    ∃ s, build image o draws = .ok s ∧ s.params.mode = selectMode (imageByte image 0x143) o.mode := by
  simp only [build, h]
  split
  · exact ⟨_, rfl, rfl⟩
  · exact ⟨_, rfl, rfl⟩

end Sys2Proof.Machine

open Sys2Proof Sys2Proof.Machine

/-- Settles O59: `make_mapper` answers a mapper where no condition of R304 holds and only there (`makeMapper_ok_iff`),
and both paths take the mode from the header (`selectMode_eq`). -/
theorem builderAccepts : Obligations.BuilderAccepts := by
  intro image o draws
  refine ⟨fun hrejected => ?_, fun haccepted => ?_⟩
  · cases hm : makeMapper image with
    | error e => exact ⟨e, build_of_error o draws hm⟩
    | ok x => exact absurd hrejected ((makeMapper_ok_iff image).mp ⟨x, hm⟩)
  · obtain ⟨x, hx⟩ := (makeMapper_ok_iff image).mpr haccepted
    obtain ⟨s, hs, hmode⟩ := build_of_ok o draws hx
    exact ⟨s, hs, hmode.trans (selectMode_eq _ _)⟩

end

section
/-! SUPPORT. The cartridge behind the address map: the ROM windows, the control windows and the window
0xA000-0xBFFF, in both mapper variants (25_cartridge.md R305 to R327). -/

namespace Sys2Proof.Machine

/-! ## The cartridge's addresses -/

section
variable {s : State} {a : Word}

theorem target_of_rom (arb : Bool) (hboot : s.bootMapped = false) (hi : a.toNat ≤ 0x7FFF) :
    target arb s a = .rom (romCell s.mapper s.cart a) := by
  have hecho : unecho a = a := unecho_of_not_echo (by omega)
  simp only [target, hecho, hboot, Bool.false_eq_true, false_and, if_false, if_pos hi]

theorem memRead_of_rom (hboot : s.bootMapped = false) (hi : a.toNat ≤ 0x7FFF) :
    memRead s a = s.mem.read (romCell s.mapper s.cart a) := by
  simp only [memRead, busRead, target_of_rom true hboot hi]

theorem memWrite_of_rom (hboot : s.bootMapped = false) (hi : a.toNat ≤ 0x7FFF) (v : Byte) :
    memWrite s a v = { s with mapper := s.mapper.control a v } := by
  simp only [memWrite, target_of_rom true hboot hi]

/-- What an address of the window selects. -/
def CartWindow.target : CartWindow → Target
  | .none => .nothing
  | .ram k => .ram k
  | .rtc sel => .rtc sel

theorem target_of_window (arb : Bool) (lo : 0xA000 ≤ a.toNat) (hi : a.toNat ≤ 0xBFFF) :
    target arb s a = (cartWindow s.mapper s.cart a).target := by
  have hecho : unecho a = a := unecho_of_not_echo (by omega)
  have hboot : bootRange s.params.mode a = false := bootRange_of_high (by omega)
  simp only [target, hecho, hboot, Bool.false_eq_true, and_false, if_false]
  rw [if_neg (by omega), if_neg (by omega), if_pos hi]
  cases cartWindow s.mapper s.cart a <;> rfl

/-- The byte of the low ROM window (R316, R326). -/
theorem memRead_lowRom (hboot : s.bootMapped = false) (hi : a.toNat ≤ 0x3FFF) :
    memRead s a = Spec.romByte s (s.mapper.lowBank % s.cart.romBanks * 16384 + a.toNat) := by
  rw [memRead_of_rom hboot (by omega), romCell, if_pos hi, Spec.romByte, Nat.add_assoc]

/-- The byte of the high ROM window (R317, R326). -/
theorem memRead_highRom (hboot : s.bootMapped = false) (lo : 0x4000 ≤ a.toNat) (hi : a.toNat ≤ 0x7FFF) :
    memRead s a = Spec.romByte s (s.mapper.highBank % s.cart.romBanks * 16384 + (a.toNat - 0x4000)) := by
  rw [memRead_of_rom hboot hi, romCell, if_neg (by omega), Spec.romByte, Nat.add_assoc]

/-! ## The window 0xA000-0xBFFF -/

variable (lo : 0xA000 ≤ a.toNat) (hi : a.toNat ≤ 0xBFFF)
include lo hi

theorem window_of_none (v : Byte) (h : cartWindow s.mapper s.cart a = .none) :
    memRead s a = 0xFF ∧ memWrite s a v = s := by
  have ht : target true s a = .nothing := by rw [target_of_window true lo hi, h]; rfl
  exact ⟨memRead_of_nothing ht, memWrite_of_nothing v ht⟩

/-- The window shows a byte of RAM (R305, R318, R327). -/
theorem window_of_ram (v : Byte) {bank : Nat} (h : cartWindow s.mapper s.cart a = .ram (cramCell s.cart bank a)) :
    let k := (bank % s.cart.ramBanks * 8192 + (a.toNat - 0xA000)) % s.cart.ramBytes
    memRead s a = Spec.cramByte s k ∧ Spec.cramByte (memWrite s a v) k = v ∧
      memWrite s a v = { s with mem := (memWrite s a v).mem } := by
  have hcell : storeCell s a = some (cramCell s.cart bank a) := by
    rw [storeCell_eq_some_iff, target_of_window true lo hi, h]; rfl
  intro k
  have hplace : storeCell s a = some (cramBase + k) := hcell
  clear_value k
  rw [memWrite_of_storeCell hplace, memRead_of_storeCell hplace]
  exact ⟨rfl, Memory.read_write_self _ _ _, rfl⟩

theorem window_of_rtc (v : Byte) {sel : Byte} (h : cartWindow s.mapper s.cart a = .rtc sel) :
    memRead s a = s.mapper.rtcRead sel ∧ memWrite s a v = { s with mapper := s.mapper.rtcWrite sel v } := by
  have ht : target true s a = .rtc sel := by rw [target_of_window true lo hi, h]; rfl
  exact ⟨by simp only [memRead, busRead, ht], by simp only [memWrite, ht]⟩

end

/-! ## Register fields -/

/-- A field of the low bits of a byte. -/
theorem extractLsb'_zero_eq (n : Nat) (v : Byte) : v.extractLsb' 0 n = BitVec.ofNat n (v.toNat % 2 ^ n) := by
  apply BitVec.eq_of_toNat_eq
  simp

/-- A bank number that is never 0 (R313, R323). -/
theorem extractLsb'_remap (n : Nat) (v : Byte) :
    (if v.extractLsb' 0 n = 0 then 1 else v.extractLsb' 0 n) =
      BitVec.ofNat n (if v.toNat % 2 ^ n = 0 then 1 else v.toNat % 2 ^ n) := by
  have hzero : v.extractLsb' 0 n = 0 ↔ v.toNat % 2 ^ n = 0 := by
    rw [← BitVec.toNat_inj]; simp
  by_cases h : v.toNat % 2 ^ n = 0
  · rw [if_pos (hzero.mpr h), if_pos h]; rfl
  · rw [if_neg (mt hzero.mp h), if_neg h, extractLsb'_zero_eq]

theorem getLsbD_zero_eq (v : Byte) : v.getLsbD 0 = decide (v.toNat % 2 = 1) := by
  rw [BitVec.getLsbD, Nat.testBit_zero]

/-! ## Variant A's window -/

theorem cartWindow_variantA_none {r : VariantA} {c : Cart} (a : Word) (h : r.ramEn = false ∨ c.ramBanks = 0) :
    cartWindow (.variantA r) c a = .none := if_pos h

theorem cartWindow_variantA_ram {r : VariantA} {c : Cart} (a : Word) (hen : r.ramEn = true) (hb : c.ramBanks ≠ 0) :
    cartWindow (.variantA r) c a = .ram (cramCell c (if r.mode then r.bank2.toNat else 0) a) :=
  if_neg (by simp [hen, hb])

/-- BANK2's part of the low bank is 0 in an image of at most 32 banks (R316). -/
theorem lowBank_variantA_mod (r : VariantA) {n : Nat} (hn : n ≤ 5) : (Mapper.variantA r).lowBank % 2 ^ n = 0 := by
  simp only [Mapper.lowBank]
  split
  · exact Nat.mod_eq_zero_of_dvd (Dvd.dvd.mul_left (pow_dvd_pow 2 hn) _)
  · exact Nat.zero_mod _

/-! ## Variant B's window -/

theorem cartWindow_variantB_none {r : VariantB} {c : Cart} (a : Word)
    (h : r.ramEn = false ∨ 0x0D ≤ r.sel.toNat ∨ (r.sel.toNat ≤ 7 ∧ c.ramBanks = 0)) :
    cartWindow (.variantB r) c a = .none := by
  simp only [cartWindow]
  rcases h with h | h | ⟨h, hb⟩
  · rw [if_pos h]
  · rw [if_neg (c := r.sel.toNat ≤ 7) (by omega), if_neg (c := r.sel.toNat ≤ 12) (by omega), ite_self]
  · rw [if_pos h, if_pos hb, ite_self]

theorem cartWindow_variantB_ram {r : VariantB} {c : Cart} (a : Word) (hen : r.ramEn = true) (hs : r.sel.toNat ≤ 7)
    (hb : c.ramBanks ≠ 0) : cartWindow (.variantB r) c a = .ram (cramCell c r.sel.toNat a) := by
  simp only [cartWindow]
  rw [if_neg (by simp [hen]), if_pos hs, if_neg hb]

theorem cartWindow_variantB_rtc {r : VariantB} (c : Cart) (a : Word) (hen : r.ramEn = true) (lo : 8 ≤ r.sel.toNat)
    (hi : r.sel.toNat ≤ 12) : cartWindow (.variantB r) c a = .rtc r.sel := by
  simp only [cartWindow]
  rw [if_neg (by simp [hen]), if_neg (by omega), if_pos hi]

/-! ## The clock's registers as bytes -/

/-- The five clock registers by number (R330). -/
theorem clockRegister_cases {n : Nat} (lo : 8 ≤ n) (hi : n ≤ 12) : n = 8 ∨ n = 9 ∨ n = 10 ∨ n = 11 ∨ n = 12 := by
  omega

theorem RtcRegs.dh_eq (r : RtcRegs) :
    r.dh = BitVec.ofNat 8 (r.dayHigh.toNat + 64 * r.halt.toNat + 128 * r.dayCarry.toNat) := by
  unfold RtcRegs.dh
  cases r.dayHigh <;> cases r.halt <;> cases r.dayCarry <;> decide

theorem rtcRead_eq (r : Rtc) {sel : Byte} (lo : 8 ≤ sel.toNat) (hi : sel.toNat ≤ 12) :
    rtcRead r sel = Spec.clockByte r.latched sel.toNat := by
  unfold rtcRead Spec.clockByte
  rcases clockRegister_cases lo hi with h | h | h | h | h
  · simp only [h, BitVec.ofNat_toNat]
  · simp only [h, BitVec.ofNat_toNat]
  · simp only [h, BitVec.ofNat_toNat]
  · simp only [h, BitVec.ofNat_toNat, BitVec.setWidth_eq]
  · simp only [h, RtcRegs.dh_eq]

/-- A clock register written reads back its stored bits (R333). -/
theorem clockByte_write_self (r : RtcRegs) {sel : Byte} (v : Byte) (lo : 8 ≤ sel.toNat) (hi : sel.toNat ≤ 12) :
    Spec.clockByte (r.write sel v) sel.toNat = Spec.clockMask sel.toNat v := by
  unfold Spec.clockByte Spec.clockMask RtcRegs.write
  rcases clockRegister_cases lo hi with h | h | h | h | h
  · simp [h, extractLsb'_zero_eq]
  · simp [h, extractLsb'_zero_eq]
  · simp [h, extractLsb'_zero_eq]
  · simp only [h]
  · simp only [h, BitVec.getLsbD, Nat.toNat_testBit]
    congr 1
    omega

/-- A write of one clock register keeps the others (R333). -/
theorem clockByte_write_ne (r : RtcRegs) {sel : Byte} (v : Byte) {k : Nat} (lo : 8 ≤ sel.toNat) (hi : sel.toNat ≤ 12)
    (hk : 8 ≤ k) (hk' : k ≤ 12) (hne : k ≠ sel.toNat) :
    Spec.clockByte (r.write sel v) k = Spec.clockByte r k := by
  unfold Spec.clockByte RtcRegs.write
  rcases clockRegister_cases lo hi with h | h | h | h | h
  · rw [h] at hne ⊢
    rcases clockRegister_cases hk hk' with rfl | rfl | rfl | rfl | rfl
    exacts [absurd rfl hne, rfl, rfl, rfl, rfl]
  · rw [h] at hne ⊢
    rcases clockRegister_cases hk hk' with rfl | rfl | rfl | rfl | rfl
    exacts [rfl, absurd rfl hne, rfl, rfl, rfl]
  · rw [h] at hne ⊢
    rcases clockRegister_cases hk hk' with rfl | rfl | rfl | rfl | rfl
    exacts [rfl, rfl, absurd rfl hne, rfl, rfl]
  · rw [h] at hne ⊢
    rcases clockRegister_cases hk hk' with rfl | rfl | rfl | rfl | rfl
    exacts [rfl, rfl, rfl, absurd rfl hne, rfl]
  · rw [h] at hne ⊢
    rcases clockRegister_cases hk hk' with rfl | rfl | rfl | rfl | rfl
    exacts [rfl, rfl, rfl, rfl, absurd rfl hne]

theorem clockByte_write (r : RtcRegs) {sel : Byte} (v : Byte) {k : Nat} (lo : 8 ≤ sel.toNat) (hi : sel.toNat ≤ 12)
    (hk : 8 ≤ k) (hk' : k ≤ 12) : Spec.clockByte (r.write sel v) k =
      if k = sel.toNat then Spec.clockMask k v else Spec.clockByte r k := by
  split
  · next h => rw [h, clockByte_write_self r v lo hi]
  · next h => exact clockByte_write_ne r v lo hi hk hk' h

end Sys2Proof.Machine

open Sys2Proof Sys2Proof.Machine

/-- Settles O50: a write below 0x8000 is a control write (`memWrite_of_rom`), the ROM windows show the banks of R316
and R317 (`memRead_lowRom`, `memRead_highRom`), and the window shows a byte of RAM where RAM is enabled and there is
some (`window_of_ram`), and nothing elsewhere (`window_of_none`). -/
theorem mapperVariantA : Obligations.MapperVariantA := by
  intro s r a v hm hboot
  refine ⟨fun hi => ?_, fun lo hi => ?_, fun lo hi => ?_, fun lo hi => ?_, fun hi => ?_, fun lo hi => ?_,
    fun lo hi => ⟨fun hnone => ?_, fun hen hb => ?_⟩⟩
  · rw [memWrite_of_rom hboot (by omega), hm, Mapper.control, VariantA.control, if_pos hi]
  · rw [memWrite_of_rom hboot (by omega), hm, Mapper.control, VariantA.control, if_neg (by omega), if_pos hi,
      extractLsb'_remap]
    rfl
  · rw [memWrite_of_rom hboot (by omega), hm, Mapper.control, VariantA.control, if_neg (by omega), if_neg (by omega),
      if_pos hi, extractLsb'_zero_eq]
    rfl
  · rw [memWrite_of_rom hboot hi, hm, Mapper.control, VariantA.control, if_neg (by omega), if_neg (by omega),
      if_neg (by omega), getLsbD_zero_eq]
  · have hread := memRead_lowRom hboot hi
    rw [hm] at hread
    refine ⟨?_, fun n hn hle => ?_⟩
    · rw [hread, Mapper.lowBank, Nat.mul_comm 32]
    · rw [hread, hn, lowBank_variantA_mod r hle, Nat.zero_mul, Nat.zero_add]
  · rw [memRead_highRom hboot lo hi, hm, Mapper.highBank, Nat.mul_comm 32]
  · exact window_of_none lo hi v (hm ▸ cartWindow_variantA_none a hnone)
  · exact window_of_ram lo hi v (hm ▸ cartWindow_variantA_ram a hen hb)

/-- Settles O51: the control writes and the ROM windows as in variant A; the window shows nothing, a byte of RAM or a
clock register (`window_of_rtc`), which reads as its byte (`rtcRead_eq`) and of which a write stores the bits it has in
both copies (`clockByte_write`). -/
theorem mapperVariantB : Obligations.MapperVariantB := by
  intro s r a v hm hboot
  refine ⟨fun hi => ?_, fun lo hi => ?_, fun lo hi => ?_, fun lo hi => ?_, fun hi => ?_, fun lo hi => ?_,
    fun lo hi => ⟨fun hnone => ?_, fun hen hs hb => ?_, fun hen slo shi => ?_⟩⟩
  · have hv : v = 0x0A ↔ v.toNat = 0x0A := BitVec.toNat_inj.symm
    rw [memWrite_of_rom hboot (by omega), hm, Mapper.control, VariantB.control, if_pos hi]
    simp only [hv]
  · rw [memWrite_of_rom hboot (by omega), hm, Mapper.control, VariantB.control, if_neg (by omega), if_pos hi,
      extractLsb'_remap]
    rfl
  · rw [memWrite_of_rom hboot (by omega), hm, Mapper.control, VariantB.control, if_neg (by omega), if_neg (by omega),
      if_pos hi]
  · rw [memWrite_of_rom hboot hi, hm, Mapper.control, VariantB.control, if_neg (by omega), if_neg (by omega),
      if_neg (by omega)]
    split <;> rfl
  · rw [memRead_lowRom hboot hi, hm, Mapper.lowBank, Nat.zero_mod, Nat.zero_mul, Nat.zero_add]
  · rw [memRead_highRom hboot lo hi, hm, Mapper.highBank]
  · exact window_of_none lo hi v (hm ▸ cartWindow_variantB_none a hnone)
  · exact window_of_ram lo hi v (hm ▸ cartWindow_variantB_ram a hen hs hb)
  · obtain ⟨hread, hwrite⟩ := window_of_rtc lo hi v (hm ▸ cartWindow_variantB_rtc s.cart a hen slo shi)
    rw [hm] at hread hwrite
    refine ⟨hread.trans (rtcRead_eq r.rtc slo shi), rtcWrite r.rtc r.sel v, hwrite, ?_, fun k hk hk' =>
      ⟨clockByte_write _ v slo shi hk hk', clockByte_write _ v slo shi hk hk'⟩⟩
    have hsel : r.sel = 0x08 ↔ r.sel.toNat = 8 := BitVec.toNat_inj.symm
    simp only [rtcWrite, hsel]

end

section
/-! SUPPORT. How many cycles a step takes (00_scope.md R36; 20_memory.md R223, R234; 46_system.md R860;
80_host_interface.md R1211, R1212). -/

namespace Sys2Proof.Machine

/-! ## The cycles of an instruction -/

/-- The outcome r is a next state, after 4 to 24 cycles. -/
def Takes (r : Result) : Prop := ∃ t, r = .next t ∧ 4 ≤ t.acct.cycles ∧ t.acct.cycles ≤ 24

theorem Takes.done {n : Nat} (h : 4 ≤ n ∧ n ≤ 24) (t : State) : Takes (done n t) := ⟨_, rfl, h⟩

theorem Takes.ite {r r' : Result} {c : Prop} [Decidable c] (h : Takes r) (h' : Takes r') :
    Takes (if c then r else r') := by
  split
  · exact h
  · exact h'

theorem Takes.cbShift (y : Oct) (operand : Option Reg8) (s : State) : Takes (execCbShift y operand s) := by
  match y, operand with
  | .o0, some _ | .o1, some _ | .o2, some _ | .o3, some _ | .o4, some _ | .o5, some _ | .o6, some _ | .o7, some _ =>
    exact .done (n := 8) (by decide) _
  | .o0, none | .o1, none | .o2, none | .o3, none | .o4, none | .o5, none | .o6, none | .o7, none =>
    exact .done (n := 16) (by decide) _

theorem Takes.prefixCb (op2 : Byte) (s : State) : Takes (execPrefixCb op2 s) := by
  unfold execPrefixCb
  generalize (fieldX op2).toNat = x
  generalize reg8OfField (fieldZ op2) = operand
  match x, operand with
  | 0, operand => exact .cbShift _ operand s
  | 1, some _ | 2, some _ | _ + 3, some _ => exact .done (n := 8) (by decide) _
  | 1, none => exact .done (n := 12) (by decide) _
  | 2, none | _ + 3, none => exact .done (n := 16) (by decide) _

/-- Every instruction but STOP takes 4 to 24 cycles (R1150). -/
theorem exec_takes {i : Instr} (hi : ∀ x, i ≠ .stop x) (s : State) : Takes (exec i s) := by
  match i with
  | .stop x => exact absurd rfl (hi x)
  | .prefixCb op2 => exact .prefixCb op2 s
  | .jpCcNn _ _ => exact .ite (.done (n := 16) (by decide) _) (.done (n := 12) (by decide) _)
  | .jrCcE _ _ => exact .ite (.done (n := 12) (by decide) _) (.done (n := 8) (by decide) _)
  | .callCcNn _ _ => exact .ite (.done (n := 24) (by decide) _) (.done (n := 12) (by decide) _)
  | .retCc _ => exact .ite (.done (n := 20) (by decide) _) (.done (n := 8) (by decide) _)
  | .nop | .halt | .di | .ei | .ldRR _ _ | .addAR _ | .adcAR _ | .subR _ | .sbcAR _ | .andR _ | .xorR _ | .orR _
  | .cpR _ | .incR _ | .decR _ | .daa | .cpl | .scf | .ccf | .rlca | .rrca | .rla | .rra | .jpHl | .illegalD3
  | .illegalDB | .illegalDD | .illegalE3 | .illegalE4 | .illegalEB | .illegalEC | .illegalED | .illegalF4 | .illegalFC
  | .illegalFD => exact .done (n := 4) (by decide) _
  | .incDd _ | .decDd _ | .addHlDd _ | .ldSpHl | .ldRN _ _ | .ldRAtHl _ | .ldAtHlR _ | .ldAAtBc | .ldAAtDe | .ldAtBcA
  | .ldAtDeA | .ldhAAtC | .ldhAtCA | .ldAAtHlInc | .ldAAtHlDec | .ldAtHlIncA | .ldAtHlDecA | .addAAtHl | .addAN _
  | .adcAAtHl | .adcAN _ | .subAtHl | .subN _ | .sbcAAtHl | .sbcAN _ | .andAtHl | .andN _ | .xorAtHl | .xorN _ | .orAtHl
  | .orN _ | .cpAtHl | .cpN _ | .rlcR _ | .rrcR _ | .rlR _ | .rrR _ | .slaR _ | .sraR _ | .swapR _ | .srlR _
  | .bitBR _ _ | .resBR _ _ | .setBR _ _ => exact .done (n := 8) (by decide) _
  | .ldDdNn _ _ | .ldHlSpE _ | .popQq _ | .popAf | .ldAtHlN _ | .ldhAAtN _ | .ldhAtNA _ | .incAtHl | .decAtHl | .jrE _
  | .bitBAtHl _ => exact .done (n := 12) (by decide) _
  | .pushQq _ | .addSpE _ | .ldAAtNn _ | .ldAtNnA _ | .jpNn _ | .ret | .reti | .rstT _ | .rlcAtHl | .rrcAtHl | .rlAtHl
  | .rrAtHl | .slaAtHl | .sraAtHl | .swapAtHl | .srlAtHl | .resBAtHl _ | .setBAtHl _ =>
    exact .done (n := 16) (by decide) _
  | .ldAtNnSp _ => exact .done (n := 20) (by decide) _
  | .callNn _ => exact .done (n := 24) (by decide) _

/-! ## The cycles of a general-purpose DMA -/

/-- The most cycles one write of HDMA5 can charge (R223): 128 blocks, twice as many in double speed. -/
def gdmaLimit (s : State) : Nat := 4096 * if s.cpu.doubleSpeed then 2 else 1

/-- The DMA cycles of t are those of s or those of one transfer. -/
def ChargesDma (s t : State) : Prop := t.acct.gdmaCycles = s.acct.gdmaCycles ∨ t.acct.gdmaCycles ≤ gdmaLimit s

theorem ChargesDma.of_acct {s t : State} (h : t.acct = s.acct) : ChargesDma s t := .inl (by rw [h])

theorem timaInc_acct (s : State) : (timaInc s).acct = s.acct := by
  unfold timaInc
  split <;> rfl

theorem resetDivider_acct (s : State) : (resetDivider s).acct = s.acct := by
  rw [resetDivider_eq]

theorem writeTac_acct (v : Byte) (s : State) : (writeTac v s).acct = s.acct := by
  unfold writeTac
  simp only
  split
  · exact timaInc_acct _
  · rfl

theorem writeSc_acct (v : Byte) (s : State) : (writeSc v s).acct = s.acct := by
  unfold writeSc
  simp only
  split
  · split <;> rfl
  · rfl

theorem ChargesDma.writeHdma5 (v : Byte) (s : State) : ChargesDma s (writeHdma5 v s) := by
  rcases Nat.lt_or_ge v.toNat 128 with hv | hv
  · cases ha : s.hdma.active with
    | true => exact .of_acct (by rw [writeHdma5_stop ha hv])
    | false =>
      right
      rw [writeHdma5_general ha hv]
      exact Nat.mul_le_mul_right _ (by omega)
  · exact .of_acct (by rw [writeHdma5_start hv])

theorem ChargesDma.ioWrite (s : State) (a : Word) (v : Byte) : ChargesDma s (ioWrite s a v) := by
  unfold Machine.ioWrite
  cases ioReg s.params.mode a with
  | hdma5 => exact .writeHdma5 v s
  | sc => exact .of_acct (writeSc_acct v s)
  | div => exact .of_acct (resetDivider_acct s)
  | tac => exact .of_acct (writeTac_acct v s)
  | dma => exact .of_acct (by simp only; rw [writeDma_eq])
  | boot => exact .of_acct (by simp only; split <;> rfl)
  | bcpd => exact .of_acct (by simp only [writeBcpd]; split <;> rfl)
  | ocpd => exact .of_acct (by simp only [writeOcpd]; split <;> rfl)
  | _ => exact .of_acct rfl

theorem ChargesDma.memWrite (s : State) (a : Word) (v : Byte) : ChargesDma s (memWrite s a v) := by
  unfold Machine.memWrite
  cases target true s a with
  | io => exact .ioWrite s a v
  | _ => exact .of_acct rfl

theorem ChargesDma.trans {s t u : State} (h : ChargesDma s t) (hd : t.cpu.doubleSpeed = s.cpu.doubleSpeed)
    (k : ChargesDma t u) : ChargesDma s u := by
  unfold ChargesDma gdmaLimit at *
  rw [hd] at k
  omega

theorem Effect.chargesDma {w : Writes} {s t : State} (e : Effect w s t) : ChargesDma s t := by
  induction e with
  | start => exact .of_acct rfl
  | store e a v ih => exact ih.trans e.hidden.doubleSpeed (.memWrite _ a v)
  | reg e _ _ ih | sp e _ _ ih | pc e _ _ ih | flags e _ _ ih | cycles e _ ih =>
    exact ih.trans e.hidden.doubleSpeed (.inl rfl)

theorem speedSwitch_acct (s : State) : (speedSwitch s).acct = s.acct := resetDivider_acct _

theorem stopCpu_acct (s : State) : (stopCpu s).acct = s.acct := resetDivider_acct s

/-- An instruction charges at most one transfer. -/
theorem Executed.chargesDma {s t : State} {i : Instr} (e : Executed s i t) : ChargesDma s t := by
  cases e with
  | row e => exact e.chargesDma
  | di | ei | lock | reti => exact .inl rfl
  | halt => exact .inl (by rw [halt_eq])
  | speedSwitch => exact .inl (show (Machine.speedSwitch s).acct.gdmaCycles = _ by rw [speedSwitch_acct])
  | stop => exact .inl (show (stopCpu s).acct.gdmaCycles = _ by rw [stopCpu_acct])

/-- The entry into an interrupt writes as a push and a jump do (R910). -/
theorem ChargesDma.enterInterrupt (k : Source) (s : State) : ChargesDma s (enterInterrupt k s) :=
  have e : Effect ⟨[], true, true, false⟩
      { clearPending k s with cpu.ime := false, cpu.imeDelay := false, cpu.haltBugPending := false }
      (Machine.enterInterrupt k s) := (Effect.start.push16 rfl _).pc rfl _
  .trans (.inl rfl) rfl e.chargesDma

/-! ## The cycles of a step -/

/-- The outcome r is a next state, after 4 to 24 cycles and those of at most one DMA transfer in the speed ds, or after
at most 8200 and none of DMA. -/
def StepTakes (ds : Bool) (r : Result) : Prop := ∃ t, r = .next t ∧ 4 ≤ t.acct.cycles ∧
  (t.acct.cycles ≤ 8200 ∧ t.acct.gdmaCycles = 0 ∨
   t.acct.cycles ≤ 24 ∧ t.acct.gdmaCycles ≤ 4096 * if ds then 2 else 1)

section
variable {ds : Bool} {s t : State} (hs : s.acct.gdmaCycles = 0)
include hs

theorem StepTakes.of_no_dma {n : Nat} (hn : 4 ≤ n ∧ n ≤ 8200) (ht : t.acct = s.acct) : StepTakes ds (done n t) :=
  ⟨_, rfl, hn.1, .inl ⟨hn.2, by rw [← hs, ← ht]⟩⟩

theorem StepTakes.of_dma {r : Result} (hr : r = .next t) (hn : 4 ≤ t.acct.cycles ∧ t.acct.cycles ≤ 24)
    (hd : ChargesDma s t) : StepTakes s.cpu.doubleSpeed r :=
  ⟨t, hr, hn.1, .inr ⟨hn.2, hd.elim (fun h => by omega) id⟩⟩

theorem StepTakes.exec (i : Instr) : StepTakes s.cpu.doubleSpeed (exec i s) := by
  by_cases hi : ∃ x, i = .stop x
  · obtain ⟨x, rfl⟩ := hi
    change StepTakes _ (execStop x s)
    unfold execStop
    split
    · exact .of_no_dma hs (by decide) (speedSwitch_acct s)
    · exact .of_no_dma hs (by decide) (stopCpu_acct s)
  · obtain ⟨t, ht, hn⟩ := exec_takes (fun x hx => hi ⟨x, hx⟩) s
    exact .of_dma hs ht hn (executed_of_exec ht).chargesDma

end

theorem StepTakes.cpuStep (s : State) : StepTakes s.cpu.doubleSpeed (cpuStep s) := by
  unfold Machine.cpuStep
  simp only
  split
  · exact .of_no_dma (s := beginStep s) rfl (by decide) rfl
  · exact .of_no_dma (s := beginStep s) rfl (by decide) rfl
  · exact .of_no_dma (s := beginStep s) rfl (by decide) rfl
  · unfold Machine.service
    split
    · next k _ =>
      exact .of_dma (s := wake (beginStep s)) rfl rfl
        (show 4 ≤ Config.serviceCycles ∧ Config.serviceCycles ≤ 24 by decide) (ChargesDma.enterInterrupt k _)
    · exact .of_no_dma (s := wake (beginStep s)) rfl (by decide) rfl
  · obtain ⟨t, ht, h⟩ := StepTakes.exec (s := afterFetch (fetched (wake (beginStep s))) (wake (beginStep s))) rfl
      (fetched (wake (beginStep s)))
    rw [runInstr, ht]
    refine ⟨_, rfl, ?_⟩
    unfold eiDelay
    split
    · exact h
    · exact h

/-- Every step completes, and takes 2 to 8200 cycles of normal speed (R1211, R1212). -/
theorem step_takes (s : State) :
    ∃ t, step s = .next t ∧ 4 ≤ t.acct.cycles ∧ 2 ≤ t.acct.normalCycles ∧ t.acct.normalCycles ≤ 8200 := by
  obtain ⟨t, ht, hlow, h⟩ := StepTakes.cpuStep s
  refine ⟨advanceUnits s.cpu.doubleSpeed t, by rw [step, ht]; rfl, ?_⟩
  simp only [advanceUnits_acct, processorCycles, normalCycles]
  refine ⟨hlow, ?_⟩
  cases hds : s.cpu.doubleSpeed with
  | false => simp only [hds, Bool.false_eq_true, if_false] at h ⊢; omega
  | true => simp only [hds, if_true] at h ⊢; omega

end Sys2Proof.Machine
end

section
/-! SUPPORT. The invariant along frame calls and sequences of host actions, and what the host's replacements do
(80_host_interface.md R1210 to R1220; 25_cartridge.md R335). -/

namespace Sys2Proof.Machine

/-! ## CARRY over a step -/

theorem Effect.carry {w : Writes} {s t : State} (e : Effect w s t) : t.carry = s.carry := by
  induction e with
  | start => rfl
  | store _ a v ih => rwa [memWrite_carry]
  | reg _ _ _ ih | sp _ _ _ ih | pc _ _ _ ih | flags _ _ _ ih | cycles _ _ ih => exact ih

theorem Executed.carry {s t : State} {i : Instr} (e : Executed s i t) : t.carry = s.carry := by
  cases e with
  | row e => exact e.carry
  | di | ei | lock | reti => rfl
  | halt => rw [halt_eq]
  | speedSwitch => exact (sameCore_resetDivider _).carry
  | stop => exact (sameCore_resetDivider s).carry

theorem enterInterrupt_carry (k : Source) (s : State) : (enterInterrupt k s).carry = s.carry := by
  simp only [enterInterrupt, setPc, push16_eq, memWrite_carry, clearPending]

theorem CpuStepped.carry {s u : State} (e : CpuStepped s u) : u.carry = s.carry := by
  cases e with
  | idle n _ => rfl
  | service k _ _ => exact enterInterrupt_carry k _
  | execute _ he =>
    rw [eiDelay_eq]
    exact (executed_of_exec he).carry

/-- CARRY is the frame loop's own: no step changes it (R1210). -/
theorem carry_of_step {s t : State} (h : step s = .next t) : t.carry = s.carry := by
  obtain ⟨u, hu, rfl⟩ := stepped_of_step h
  rw [advanceUnits_carry, hu.carry]

/-! ## A frame call -/

/-- The loop ends within n steps where n steps of two cycles reach the budget (R1212). -/
theorem frameLoop_ends {n total : Nat} (s : State) (htotal : total < 70224) (h : 70224 ≤ total + 2 * n) :
    ∃ t, frameLoop n total s = .next t ∧ t.frameCalled = true := by
  induction n generalizing total s with
  | zero => omega
  | succ n ih =>
    obtain ⟨u, hu, -, htwo, -⟩ := step_takes s
    simp only [frameLoop, hu]
    split
    · exact ⟨_, rfl, rfl⟩
    · next hbelow =>
      simp only [Config.frameCycles] at hbelow
      exact ih u (by omega) (by omega)

theorem Inv.endFrame {s : State} (h : Inv s) {c : Nat} (hc : c < Config.frameCycles) :
    Inv { s with carry := c, frameCalled := true } :=
  ⟨h.memory, h.cart, h.mapper, h.ppu, h.hdma, h.monochrome, h.serial, h.wait, h.haltBug, h.video, hc⟩

/-- The loop keeps the invariant: what is left over is less than the cycles of one step (R1211). -/
theorem Inv.frameLoop {n total : Nat} {s t : State} (h : Inv s) (htotal : total + s.carry < 70224)
    (hloop : frameLoop n total s = .next t) : Inv t := by
  induction n generalizing total s with
  | zero => cases hloop; exact h
  | succ n ih =>
    obtain ⟨u, hu, -, -, hle⟩ := step_takes s
    have hcarry := carry_of_step hu
    have hinv := stepKeepsInv s u h hu
    simp only [Machine.frameLoop, hu] at hloop
    split at hloop
    · cases hloop
      refine hinv.endFrame ?_
      simp only [Config.frameCycles]
      omega
    · next hbelow =>
      simp only [Config.frameCycles] at hbelow
      exact ih hinv (by omega) hloop

/-! ## Host actions -/

theorem ramSize_eq (s : State) : Spec.ramSize s = s.mapper.ramBytes s.cart := by
  unfold Spec.ramSize Mapper.ramBytes
  cases s.mapper <;> rfl

theorem hostMay_replaceSaveRam_iff (s : State) (bytes : List Byte) :
    hostMay (.replaceSaveRam bytes) s = true ↔ s.frameCalled = false ∧ bytes.length = Spec.ramSize s := by
  simp [hostMay, ramSize_eq]

theorem hostMay_replaceClock_iff (s : State) (rtc : Rtc) :
    hostMay (.replaceClock rtc) s = true ↔ s.frameCalled = false ∧ clockState s ≠ none ∧ rtc.sub < 4194304 := by
  simp only [hostMay, Bool.and_eq_true, Bool.not_eq_true', decide_eq_true_eq, Option.isSome_iff_ne_none, and_assoc]
  rfl

theorem Inv.hostAct {x : HostAction} {s t : State} (h : Inv s) (hx : hostAct x s = .next t) : Inv t := by
  cases hmay : hostMay x s with
  | false => rw [hostAct_of_not hmay] at hx; cases hx
  | true =>
    rw [hostAct_of_may hmay] at hx
    cases x with
    | joypad buttons => cases hx; exact h.joypadSet buttons
    | replaceSaveRam bytes => cases hx; exact h.writeSaveRam bytes
    | replaceClock rtc =>
      cases hx
      obtain ⟨-, -, hsub⟩ := (hostMay_replaceClock_iff s rtc).mp hmay
      exact h.setMapper (h.mapper.setClock hsub)
    | frame => exact h.frameLoop (by rw [Nat.zero_add]; exact h.carry) hx

theorem Inv.hostRun {actions : List HostAction} {s t : State} (h : Inv s) (hrun : hostRun actions s = .next t) :
    Inv t := by
  induction actions generalizing s with
  | nil => cases hrun; exact h
  | cons x rest ih =>
    simp only [Machine.hostRun] at hrun
    cases hx : Machine.hostAct x s with
    | next u => rw [hx] at hrun; exact ih (h.hostAct hx) hrun
    | fault e => rw [hx] at hrun; cases hrun
    | refused e => rw [hx] at hrun; cases hrun

/-- A clock that may be replaced is variant B's (R330). -/
theorem variantB_of_clockState {s : State} (h : clockState s ≠ none) : ∃ r, s.mapper = .variantB r := by
  unfold clockState at h
  split at h
  · next r hr => exact ⟨r, hr⟩
  · exact absurd rfl h

/-! ## Construction -/

theorem Inv.build {image : List Byte} {o : BuildOptions} {draws s : State} (hd : o.bootSkip = true ∨ Inv draws)
    (h : build image o draws = .ok s) : Inv s := by
  unfold Machine.build at h
  split at h
  · cases h
  · next mapper cart hmake =>
    obtain ⟨hmapper, hcart⟩ := makeMapper_legal hmake
    simp only at h
    split at h
    · cases h
      exact .bootSkip _ _ hcart hmapper (placeCart_wf _ _ _ rfl)
    · next hskip =>
      cases h
      exact .bootRom _ _ _ hcart hmapper (hd.resolve_left hskip)

end Sys2Proof.Machine

open Sys2Proof Sys2Proof.Machine

/-- Settles O46: both paths build a machine that meets the invariant (`Inv.build`); a host action keeps it
(`Inv.hostAct`, for a frame call by induction on its steps, `Inv.frameLoop`); a frame call ends since a step takes at
least two cycles (`frameLoop_ends`); and the two replacements are those `hostMay` allows. -/
theorem builtInv : Obligations.BuiltInv := by
  refine ⟨fun image o draws s hd h => Inv.build hd h, fun s t actions h hrun => h.hostRun hrun,
    fun s _ => ⟨fun _ => rfl, frameLoop_ends s (by decide) (by decide),
    fun bytes => ⟨fun hallowed => ?_, fun hnot => ?_⟩, fun rtc => ⟨fun hallowed => ?_, fun hnot => ?_⟩⟩⟩
  · have hlen := hallowed.2
    refine ⟨_, hostAct_of_may ((hostMay_replaceSaveRam_iff s bytes).mpr hallowed), ?_, rfl, fun j hj => ?_⟩
    · exact saveRam_writeList s (ramSize_eq s ▸ hlen)
    · exact (Memory.read_writeList _ _ _ _).trans (if_neg (by omega))
  · exact hostAct_of_not (eq_false_of_ne_true (mt (hostMay_replaceSaveRam_iff s bytes).mp hnot))
  · obtain ⟨r, hr⟩ := variantB_of_clockState hallowed.2.1
    refine ⟨_, hostAct_of_may ((hostMay_replaceClock_iff s rtc).mpr hallowed), ?_, rfl, r, hr, ?_⟩
    · exact clockState_setClock rtc (Option.isSome_iff_ne_none.mpr hallowed.2.1)
    · rw [hr]; rfl
  · exact hostAct_of_not (eq_false_of_ne_true (mt (hostMay_replaceClock_iff s rtc).mp hnot))

end

section
/-! SUPPORT. Encoding and decoding are inverse (30_encoding.md R400 to R434): the immediates of an instruction play no
part in which row it is, so what holds of every opcode with zeros after it holds with any bytes after it. -/

namespace Sys2Proof

open Sys2Proof.Machine

/-! ## Immediates (R420 to R422) -/

/-- The instruction with the bytes b1 and b2 for its immediate, where it has one. -/
def Instr.withImmediate (b1 b2 : Byte) : Instr → Instr
  | .ldDdNn dd _ => .ldDdNn dd (mkWord b2 b1)
  | .ldAtNnSp _ => .ldAtNnSp (mkWord b2 b1)
  | .jpCcNn cc _ => .jpCcNn cc (mkWord b2 b1)
  | .jpNn _ => .jpNn (mkWord b2 b1)
  | .callCcNn cc _ => .callCcNn cc (mkWord b2 b1)
  | .callNn _ => .callNn (mkWord b2 b1)
  | .ldAtNnA _ => .ldAtNnA (mkWord b2 b1)
  | .ldAAtNn _ => .ldAAtNn (mkWord b2 b1)
  | .ldRN r _ => .ldRN r b1
  | .ldAtHlN _ => .ldAtHlN b1
  | .stop _ => .stop b1
  | .jrE _ => .jrE b1
  | .jrCcE cc _ => .jrCcE cc b1
  | .addAN _ => .addAN b1
  | .adcAN _ => .adcAN b1
  | .subN _ => .subN b1
  | .sbcAN _ => .sbcAN b1
  | .andN _ => .andN b1
  | .xorN _ => .xorN b1
  | .orN _ => .orN b1
  | .cpN _ => .cpN b1
  | .ldhAtNA _ => .ldhAtNA b1
  | .addSpE _ => .addSpE b1
  | .ldhAAtN _ => .ldhAAtN b1
  | .ldHlSpE _ => .ldHlSpE b1
  | .prefixCb _ => .prefixCb b1
  | i => i

section
variable (i : Instr) (op op2 b1 b2 : Byte)

theorem rowIndex_withImmediate : (i.withImmediate b1 b2).rowIndex = i.rowIndex := by cases i <;> rfl

theorem wellFormed_withImmediate : (i.withImmediate b1 b2).wellFormed = i.wellFormed := by cases i <;> rfl

/-- The two bytes of n16, the low byte first (R420). -/
@[simp] theorem imm16_mkWord : imm16 (mkWord b2 b1) = [b1, b2] := by simp [imm16]

/-- In a row of R430 the bytes after the opcode are the immediate. -/
theorem encode_withImmediate (h : i.rowIndex < 94) :
    encode (i.withImmediate b1 b2) = ((encode i).headD 0 :: [b1, b2]).take (encode i).length := by
  cases i with
  | ldDdNn _ _ | ldAtNnSp _ | jpCcNn _ _ | jpNn _ | callCcNn _ _ | callNn _ | ldAtNnA _ | ldAAtNn _ =>
    simp [Instr.withImmediate, encode, imm16]
  | rlcR _ | rlcAtHl | rrcR _ | rrcAtHl | rlR _ | rlAtHl | rrR _ | rrAtHl | slaR _ | slaAtHl | sraR _ | sraAtHl
  | swapR _ | swapAtHl | srlR _ | srlAtHl | bitBR _ _ | bitBAtHl _ | resBR _ _ | resBAtHl _ | setBR _ _
  | setBAtHl _ => exact absurd h (by simp [Instr.rowIndex, Instr.ctorIdx])
  | _ => rfl

/-! ## The first stage (R430) -/

theorem decodeX0_eq : decodeX0 op b1 b2 = (decodeX0 op 0 0).withImmediate b1 b2 := by
  unfold decodeX0
  generalize oct (fieldZ op) = z, oct (fieldY op) = y, reg8OfField (fieldY op) = r, fieldQ op = q
  cases z with
  | o0 | o2 | o7 => cases y <;> rfl
  | o1 | o3 => cases q <;> rfl
  | o4 | o5 | o6 => cases r <;> rfl

theorem decodeX1_eq : decodeX1 op = (decodeX1 op).withImmediate b1 b2 := by
  unfold decodeX1
  generalize reg8OfField (fieldY op) = r, reg8OfField (fieldZ op) = s
  cases r <;> cases s <;> rfl

theorem decodeAlu_eq (y : Oct) (operand : Option Reg8) :
    decodeAlu y operand = (decodeAlu y operand).withImmediate b1 b2 := by
  cases y <;> cases operand <;> rfl

theorem decodeX3_eq : decodeX3 op b1 b2 = (decodeX3 op 0 0).withImmediate b1 b2 := by
  unfold decodeX3
  generalize oct (fieldZ op) = z, oct (fieldY op) = y
  cases z with
  | o7 => rfl
  | _ => cases y <;> rfl

/-- The opcode alone selects the form; the bytes after it are the form's immediate. -/
theorem decodeFirst_eq : decodeFirst op b1 b2 = (decodeFirst op 0 0).withImmediate b1 b2 := by
  unfold decodeFirst
  split
  · exact decodeX0_eq op b1 b2
  · exact decodeX1_eq op b1 b2
  · exact decodeAlu_eq b1 b2 _ _
  · exact decodeX3_eq op b1 b2

theorem rowIndex_decodeFirst : (decodeFirst op b1 b2).rowIndex = (decodeFirst op 0 0).rowIndex := by
  rw [decodeFirst_eq, rowIndex_withImmediate]

/-- The opcodes with zeros after them, one by one. -/
theorem encode_decodeFirst_zero : ∀ op : Byte, (decodeFirst op 0 0).rowIndex < 94 ∧
    encode (decodeFirst op 0 0) = [op, 0, 0].take (opcodeLength op) := by
  decide +kernel

theorem one_le_opcodeLength : 1 ≤ opcodeLength op := by
  unfold opcodeLength
  split_ifs <;> decide

theorem opcodeLength_le : opcodeLength op ≤ 3 := by
  unfold opcodeLength
  split_ifs <;> decide

/-- Encoding undoes the first stage. -/
theorem encode_decodeFirst : encode (decodeFirst op b1 b2) = [op, b1, b2].take (opcodeLength op) := by
  obtain ⟨hrow, hzero⟩ := encode_decodeFirst_zero op
  have hlen := one_le_opcodeLength op
  have hle := opcodeLength_le op
  rw [decodeFirst_eq, encode_withImmediate _ _ _ hrow, hzero]
  obtain ⟨n, hn⟩ : ∃ n, opcodeLength op = n + 1 := ⟨opcodeLength op - 1, by omega⟩
  simp [hn, show n ≤ 2 by omega]

theorem wellFormed_decodeFirst (h : op ≠ 0xCB) : (decodeFirst op b1 b2).WellFormed := by
  have hzero : ∀ op : Byte, op ≠ 0xCB → (decodeFirst op 0 0).WellFormed := by decide +kernel
  rw [Instr.WellFormed, decodeFirst_eq, wellFormed_withImmediate]
  exact hzero op h

/-! ## Both stages (R434) -/

theorem decode3_cb : decode3 0xCB op2 b2 = decodeCb op2 := rfl

theorem decode3_of_ne (h : op ≠ 0xCB) : decode3 op b1 b2 = decodeFirst op b1 b2 := by
  have hwf := wellFormed_decodeFirst op b1 b2 h
  unfold decode3
  split
  · next hi => rw [hi] at hwf; cases hwf
  · rfl

/-- The bytes after 0xCB, one by one (R431). -/
theorem encode_decodeCb : ∀ op2 : Byte, (decodeCb op2).WellFormed ∧ encode (decodeCb op2) = [0xCB, op2] := by
  decide +kernel

theorem wellFormed_decode3 : (decode3 op b1 b2).WellFormed := by
  by_cases h : op = 0xCB
  · rw [h, decode3_cb]
    exact (encode_decodeCb b1).1
  · rw [decode3_of_ne op b1 b2 h]
    exact wellFormed_decodeFirst op b1 b2 h

theorem encode_decode3 : encode (decode3 op b1 b2) = [op, b1, b2].take (opcodeLength op) := by
  by_cases h : op = 0xCB
  · rw [h, decode3_cb]
    exact (encode_decodeCb b1).2
  · rw [decode3_of_ne op b1 b2 h]
    exact encode_decodeFirst op b1 b2

/-- Three bytes are enough for any instruction, and decoding takes as many as it has (R402). -/
theorem decode_three :
    decode [op, b1, b2] = .ok (decode3 op b1 b2, [op, b1, b2].drop (opcodeLength op)) := by
  have hle := opcodeLength_le op
  have hlen := one_le_opcodeLength op
  obtain ⟨n, hn⟩ : ∃ n, opcodeLength op = n + 1 := ⟨opcodeLength op - 1, by omega⟩
  have henough : ¬ 2 + 1 < n + 1 := by omega
  simp [decode, hn, henough]

end

end Sys2Proof

open Sys2Proof

/-- Settles O3: the bytes after an opcode are the immediate of the form it selects (`decodeFirst_eq`), so that it is
enough to look at every opcode with zeros after it. -/
theorem encodeOfDecode : Obligations.EncodeOfDecode := by
  unfold Obligations.EncodeOfDecode
  exact fun op b1 b2 => ⟨wellFormed_decode3 op b1 b2, encode_decode3 op b1 b2, decode_three op b1 b2⟩

/-- Settles O4: the row of an opcode is that of its form with zeros for the immediate. -/
theorem opcodeSelectsOneRow : Obligations.OpcodeSelectsOneRow := by
  unfold Obligations.OpcodeSelectsOneRow
  intro op b1 b2
  rw [rowIndex_decodeFirst]
  exact ⟨(Laws.WordForm.firstByte_decodeFirst op).2, (Laws.WordForm.secondByte_decodeCb op).2⟩

end

section
/-! SUPPORT. Decoding the bytes of an instruction gives it back, whatever follows (30_encoding.md R400 to R431): one
rule for each length, and the fields of each row read back from its bytes. -/

namespace Sys2Proof

open Sys2Proof.Machine

/-! ## Restart targets (R417) -/

/-- The opcode of RST t, for every t. -/
theorem fields_rst (t : BitVec 3) :
    opcodeLength (withY 0xC7 t) = 1 ∧ withY 0xC7 t ≠ 0xCB ∧ decodeFirst (withY 0xC7 t) 0 0 = .rstT t := by
  revert t
  decide +kernel

/-! ## One rule for each length (R402) -/

/-- The bytes of i decode to i, whatever follows. -/
def Decodes (i : Instr) : Prop := ∀ rest, decode (encode i ++ rest) = .ok (i, rest)

section
variable {i : Instr} {op n : Byte}

theorem Decodes.one (he : encode i = [op]) (hlen : opcodeLength op = 1) (hd : ∀ b1 b2, decode3 op b1 b2 = i) :
    Decodes i := by
  intro rest
  simp [he, decode, hlen, hd]

theorem Decodes.two (he : encode i = [op, n]) (hlen : opcodeLength op = 2) (hd : ∀ b2, decode3 op n b2 = i) :
    Decodes i := by
  intro rest
  simp [he, decode, hlen, hd]

/-- n16 is read back from its two bytes (R420). -/
theorem Decodes.three {f : Word → Instr} (nn : Word) (he : encode (f nn) = op :: imm16 nn)
    (hlen : opcodeLength op = 3) (hd : ∀ b1 b2, decode3 op b1 b2 = f (mkWord b2 b1)) : Decodes (f nn) := by
  intro rest
  simp [he, decode, hlen, hd, imm16]

/-- A row of R431: the second byte decides. -/
theorem Decodes.cb (he : encode i = [0xCB, op]) (hd : decodeCb op = i) : Decodes i := .two he rfl fun _ => hd

end

/-- Every well-formed instruction, row by row. -/
theorem decodes_of_wellFormed {i : Instr} (hi : i.WellFormed) : Decodes i := by
  match i with
  | .prefixCb _ => cases hi
  | .nop | .ldAtBcA | .ldAtDeA | .ldAtHlIncA | .ldAtHlDecA | .incAtHl | .decAtHl | .rlca | .rrca | .rla | .rra | .daa
  | .cpl | .scf | .ccf | .ldAAtBc | .ldAAtDe | .ldAAtHlInc | .ldAAtHlDec | .halt | .addAAtHl | .adcAAtHl | .subAtHl
  | .sbcAAtHl | .andAtHl | .xorAtHl | .orAtHl | .cpAtHl | .popAf | .ret | .reti | .ldhAtCA | .jpHl | .ldhAAtC | .di
  | .ldSpHl | .ei | .illegalD3 | .illegalDB | .illegalDD | .illegalE3 | .illegalE4 | .illegalEB | .illegalEC
  | .illegalED | .illegalF4 | .illegalFC | .illegalFD => exact .one rfl rfl fun _ _ => rfl
  | .incR r | .decR r | .ldRAtHl r | .ldAtHlR r | .addAR r | .adcAR r | .subR r | .sbcAR r | .andR r | .xorR r | .orR r
  | .cpR r => cases r <;> exact .one rfl rfl fun _ _ => rfl
  | .ldRR r s => cases r <;> cases s <;> exact .one rfl rfl fun _ _ => rfl
  | .incDd dd | .decDd dd | .addHlDd dd => cases dd <;> exact .one rfl rfl fun _ _ => rfl
  | .retCc cc => cases cc <;> exact .one rfl rfl fun _ _ => rfl
  | .pushQq qq => cases qq <;> exact .one rfl rfl fun _ _ => rfl
  | .popQq qq =>
    cases qq with
    | af => cases hi
    | bc | de | hl => exact .one rfl rfl fun _ _ => rfl
  | .rstT t =>
    obtain ⟨hlen, hne, hzero⟩ := fields_rst t
    exact .one rfl hlen fun b1 b2 => by rw [decode3_of_ne _ _ _ hne, decodeFirst_eq, hzero]; rfl
  | .ldAtHlN _ | .stop _ | .jrE _ | .addAN _ | .adcAN _ | .subN _ | .sbcAN _ | .andN _ | .xorN _ | .orN _ | .cpN _
  | .ldhAtNA _ | .addSpE _ | .ldhAAtN _ | .ldHlSpE _ => exact .two rfl rfl fun _ => rfl
  | .ldRN r _ => cases r <;> exact .two rfl rfl fun _ => rfl
  | .jrCcE cc _ => cases cc <;> exact .two rfl rfl fun _ => rfl
  | .ldDdNn dd nn => cases dd <;> exact .three nn rfl rfl fun _ _ => rfl
  | .ldAtNnSp nn | .jpNn nn | .callNn nn | .ldAtNnA nn | .ldAAtNn nn => exact .three nn rfl rfl fun _ _ => rfl
  | .jpCcNn cc nn | .callCcNn cc nn => cases cc <;> exact .three nn rfl rfl fun _ _ => rfl
  | .rlcAtHl | .rrcAtHl | .rlAtHl | .rrAtHl | .slaAtHl | .sraAtHl | .swapAtHl | .srlAtHl => exact .cb rfl rfl
  | .rlcR s | .rrcR s | .rlR s | .rrR s | .slaR s | .sraR s | .swapR s | .srlR s => cases s <;> exact .cb rfl rfl
  | .bitBR b s | .resBR b s | .setBR b s => exact .cb rfl (by revert b; cases s <;> decide +kernel)
  | .bitBAtHl b | .resBAtHl b | .setBAtHl b => exact .cb rfl (by revert b; decide +kernel)

end Sys2Proof

open Sys2Proof

/-- Settles O2: the length of an instruction is that of its opcode, so decoding looks at its own bytes only
(`Decodes.one` to `Decodes.cb`), and row by row these give the instruction back. -/
theorem decodeOfEncode : Obligations.DecodeOfEncode := by
  unfold Obligations.DecodeOfEncode
  exact fun _ rest hi => decodes_of_wellFormed hi rest

end

section
/-! SUPPORT. The outcome of an instruction in the arithmetic of the statements (R31, R35, R423): halves of a word,
signed offsets and pushes as numbers. -/

namespace Sys2Proof.Machine

/-! ## PREFIX CB (R434, R857) -/

theorem exec_decodeShift (y : Oct) (operand : Option Reg8) (s : State) :
    exec (decodeShift y operand) s = execCbShift y operand s := by
  cases y <;> cases operand <;> rfl

/-- The CB form of a byte runs as PREFIX CB with that byte. -/
theorem exec_decodeCb (op2 : Byte) (s : State) : exec (decodeCb op2) s = exec (.prefixCb op2) s := by
  change _ = execPrefixCb op2 s
  unfold execPrefixCb decodeCb
  generalize (fieldX op2).toNat = x, reg8OfField (fieldZ op2) = operand
  match x, operand with
  | 0, operand => exact exec_decodeShift _ operand s
  | 1, some _ | 1, none | 2, some _ | 2, none | _ + 3, some _ | _ + 3, none => rfl

/-- The outcome is a next state in 8, 12 or 16 cycles. -/
def TakesCb (r : Result) : Prop :=
  ∃ t, r = .next t ∧ (t.acct.cycles = 8 ∨ t.acct.cycles = 12 ∨ t.acct.cycles = 16)

theorem TakesCb.done {n : Nat} (h : n = 8 ∨ n = 12 ∨ n = 16) (t : State) : TakesCb (done n t) := ⟨_, rfl, h⟩

theorem TakesCb.cbShift (y : Oct) (operand : Option Reg8) (s : State) : TakesCb (execCbShift y operand s) := by
  match y, operand with
  | .o0, some _ | .o1, some _ | .o2, some _ | .o3, some _ | .o4, some _ | .o5, some _ | .o6, some _ | .o7, some _ =>
    exact .done (n := 8) (by decide) _
  | .o0, none | .o1, none | .o2, none | .o3, none | .o4, none | .o5, none | .o6, none | .o7, none =>
    exact .done (n := 16) (by decide) _

theorem TakesCb.prefixCb (op2 : Byte) (s : State) : TakesCb (exec (.prefixCb op2) s) := by
  change TakesCb (execPrefixCb op2 s)
  unfold execPrefixCb
  generalize (fieldX op2).toNat = x, reg8OfField (fieldZ op2) = operand
  match x, operand with
  | 0, operand => exact .cbShift _ operand s
  | 1, some _ | 2, some _ | _ + 3, some _ => exact .done (n := 8) (by decide) _
  | 1, none => exact .done (n := 12) (by decide) _
  | 2, none | _ + 3, none => exact .done (n := 16) (by decide) _

/-! ## Words as numbers (R31, R423) -/

theorem hiByte_eq_high (v : Word) : hiByte v = Spec.high v := by
  apply BitVec.eq_of_toNat_eq
  simp [hiByte, Spec.high, Nat.shiftRight_eq_div_pow]

theorem loByte_eq_low (v : Word) : loByte v = Spec.low v := by
  apply BitVec.eq_of_toNat_eq
  simp [loByte, Spec.low]

theorem Cpu.hl_eq (x : Cpu) : x.hl = BitVec.ofNat 16 (256 * x.h.toNat + x.l.toNat) := mkWord_eq x.h x.l

/-- The sign extension of e adds 0xFF00 where e is negative. -/
theorem add_sext16_eq (v : Word) (e : Byte) : v + sext16 e = Spec.plusSigned v e := by
  have hext : (sext16 e).toNat = e.toNat + if e.toNat < 128 then 0 else 0xFF00 := by
    revert e
    decide +kernel
  apply BitVec.eq_of_toNat_eq
  rw [BitVec.toNat_add, hext, Spec.plusSigned, BitVec.toNat_ofNat, Nat.add_assoc]

/-- A call in n cycles is the push of PC and the target in PC (R35, R811). -/
theorem done_call (target : Word) (n : Nat) (s : State) :
    done n (call target s) =
      .next (Spec.pushed s s.cpu.pc { s.cpu with sp := s.cpu.sp - 2, pc := target } n) := by
  rw [call, push16_eq, hiByte_eq_high, loByte_eq_low]
  rfl

/-! ## The timer's divider (R941, R942) -/

theorem timerBit_eq (tac : BitVec 3) :
    timerBit (tac.extractLsb' 0 2) = if tac.toNat % 4 = 0 then 9 else 1 + 2 * (tac.toNat % 4) := by
  revert tac
  decide

theorem signal_eq (t : Timer) : t.signal =
    (t.tac.getLsbD 2 && t.div16.getLsbD (if t.tac.toNat % 4 = 0 then 9 else 1 + 2 * (t.tac.toNat % 4))) := by
  rw [Timer.signal, timerBit_eq]

/-- TIMA counts once more (R941), by its two cases. -/
theorem timaInc_eq (s : State) : timaInc s = { s with
    timer.tima := if s.timer.tima = 0xFF then s.timer.tma else s.timer.tima + 1
    irq.iflag := if s.timer.tima = 0xFF then s.irq.iflag ||| 0b00100 else s.irq.iflag } := by
  have hbit : BitVec.twoPow 5 Source.timer.bit = 0b00100 := by decide
  unfold timaInc
  split <;> simp [request, hbit]

/-- A reset of the divider counts TIMA once where the timer's signal is 1. -/
theorem resetDivider_eq_count (s : State) : resetDivider s = { s with
    timer.div16 := 0
    timer.tima := if s.timer.signal then if s.timer.tima = 0xFF then s.timer.tma else s.timer.tima + 1 else s.timer.tima
    irq.iflag := if s.timer.signal ∧ s.timer.tima = 0xFF then s.irq.iflag ||| 0b00100 else s.irq.iflag } := by
  unfold resetDivider
  cases hsig : s.timer.signal <;> simp [timaInc_eq]

theorem stopSwitches_iff (s : State) :
    stopSwitches s = true ↔ s.params.mode = .color ∧ s.color.key1Armed = true := by
  simp [stopSwitches]

end Sys2Proof.Machine

open Sys2Proof Sys2Proof.Machine

/-- Settles O5: the CB form and PREFIX CB have one meaning (`exec_decodeCb`), of 8 cycles on a register, 12 for
BIT b,(HL) and 16 for a write at HL. -/
theorem prefixRunsCbForm : Obligations.PrefixRunsCbForm := by
  unfold Obligations.PrefixRunsCbForm
  intro op2 s
  obtain ⟨t, ht, hcycles⟩ := TakesCb.prefixCb op2 s
  exact ⟨t, ht, (exec_decodeCb op2 s).trans ht, hcycles⟩

/-- Settles O29: the reset of the divider as arithmetic (`resetDivider_eq_count`) in each of the two cases of STOP. -/
theorem stop : Obligations.Stop := by
  unfold Obligations.Stop
  intro x s
  simp only [← signal_eq]
  constructor
  · intro h
    change execStop x s = _
    rw [execStop, if_pos ((stopSwitches_iff s).mpr h), speedSwitch, resetDivider_eq_count]
    rfl
  · intro h
    change execStop x s = _
    rw [execStop, if_neg (mt (stopSwitches_iff s).mp h), stopCpu, resetDivider_eq_count]
    rfl

/-- Settles O1, by evaluation. -/
theorem sampleWords : Obligations.SampleWords := by
  unfold Obligations.SampleWords
  exact ⟨rfl, rfl, rfl, rfl, rfl, rfl, rfl, rfl, rfl, rfl, rfl, rfl, rfl, rfl, rfl, rfl, rfl, rfl, rfl, rfl⟩

/-- Settles O12: both add the signed offset (`add_sext16_eq`). -/
theorem spPlusOffset : Obligations.SpPlusOffset := by
  unfold Obligations.SpPlusOffset
  intro e s
  simp only [← add_sext16_eq, ← hiByte_eq_high, ← loByte_eq_low]
  exact ⟨rfl, rfl⟩

/-- Settles O24: each jump is a write of PC, under its condition where it has one. -/
theorem jumps : Obligations.Jumps := by
  unfold Obligations.Jumps
  intro cc e nn s
  simp only [← Cpu.hl_eq, ← add_sext16_eq, holds_eq]
  refine ⟨rfl, rfl, rfl, ?_, ?_⟩
  · rw [apply_ite Host.Outcome.next]
    rfl
  · rw [apply_ite Host.Outcome.next]
    rfl

/-- Settles O25: a call pushes PC (`done_call`), under its condition where it has one. -/
theorem calls : Obligations.Calls := by
  unfold Obligations.Calls
  intro cc nn t s
  refine ⟨done_call nn 24 s, ?_, ?_⟩
  · rw [apply_ite Host.Outcome.next, holds_eq, ← done_call]
    rfl
  · rw [Nat.mul_comm]
    exact done_call _ 16 s

/-- Settles O30: every unused opcode runs `lock` with its own byte. -/
theorem unusedOpcodesLock : Obligations.UnusedOpcodesLock := by
  unfold Obligations.UnusedOpcodesLock
  intro s p hp
  simp only [List.mem_cons, List.not_mem_nil, or_false] at hp
  rcases hp with rfl | rfl | rfl | rfl | rfl | rfl | rfl | rfl | rfl | rfl | rfl <;> rfl

end

section
/-! SUPPORT. The 8-bit loads in the arithmetic of the statements (40_loads8.md R501 to R520): HL moved by one, the write
of one register, and the write of one byte to memory. -/

namespace Sys2Proof.Machine

/-! ## Addresses (R520) -/

theorem Cpu.bc_eq (x : Cpu) : x.bc = BitVec.ofNat 16 (256 * x.b.toNat + x.c.toNat) := mkWord_eq x.b x.c

theorem Cpu.de_eq (x : Cpu) : x.de = BitVec.ofNat 16 (256 * x.d.toNat + x.e.toNat) := mkWord_eq x.d x.e

theorem readHl_eq_atHl (s : State) : readHl s = Spec.atHl s := by
  rw [readHl, Cpu.hl_eq, Spec.atHl]

/-- What k has above bit 15 is lost in the high byte too. -/
theorem high_ofNat (k : Nat) : Spec.high (BitVec.ofNat 16 k) = BitVec.ofNat 8 (k / 256) := by
  apply BitVec.eq_of_toNat_eq
  simp only [Spec.high, BitVec.toNat_ofNat]
  omega

theorem low_ofNat (k : Nat) : Spec.low (BitVec.ofNat 16 k) = BitVec.ofNat 8 (k % 256) := by
  apply BitVec.eq_of_toNat_eq
  simp only [Spec.low, BitVec.toNat_ofNat]
  omega

/-- HL moved by k is the sum of its number and k, in halves. -/
theorem Cpu.setHl_hl_add (x : Cpu) (k : Nat) : x.setHl (x.hl + BitVec.ofNat 16 k) = { x with
    h := BitVec.ofNat 8 ((256 * x.h.toNat + x.l.toNat + k) / 256)
    l := BitVec.ofNat 8 ((256 * x.h.toNat + x.l.toNat + k) % 256) } := by
  rw [Cpu.hl_eq, ← BitVec.ofNat_add, Cpu.setHl, hiByte_eq_high, loByte_eq_low, high_ofNat, low_ofNat]

theorem Cpu.setHl_hl_sub_one (x : Cpu) : x.setHl (x.hl - 1) = { x with
    h := BitVec.ofNat 8 ((256 * x.h.toNat + x.l.toNat + 65535) / 256)
    l := BitVec.ofNat 8 ((256 * x.h.toNat + x.l.toNat + 65535) % 256) } := by
  rw [← Cpu.setHl_hl_add, BitVec.sub_eq_add_neg]
  rfl

theorem done_setHl {w : Word} {s : State} {x : Cpu} (n : Nat) (h : s.cpu.setHl w = x) :
    done n (setHl w s) = .next { s with cpu := x, acct.cycles := n } := by
  rw [setHl, h]
  rfl

/-! ## The write of one register -/

/-- A write of register r and the flags changes nothing else. -/
theorem setsReg_of_setFlags_setR8 {i : Instr} {s : State} {r : Reg8} {v : Byte} {f : Flags} {n : Nat}
    (h : exec i s = done n (setFlags f (setR8 r v s))) : Spec.setsReg i s r v f n := by
  refine ⟨_, h, ?_, fun q hq => ?_, ?_⟩
  · simp
  · simp [hq]
  · cases r <;> rfl

theorem setFlags_setR8_self (r : Reg8) (v : Byte) (s : State) : setFlags s.cpu.f (setR8 r v s) = setR8 r v s := by
  cases r <;> rfl

theorem setsReg_of_setR8 {i : Instr} {s : State} {r : Reg8} {v : Byte} {n : Nat}
    (h : exec i s = done n (setR8 r v s)) : Spec.setsReg i s r v s.cpu.f n :=
  setsReg_of_setFlags_setR8 (by rw [h, setFlags_setR8_self])

/-! ## The write of one byte to memory -/

/-- A write leaves the processor's registers as they are (R205). -/
theorem stores_of_memWrite {i : Instr} {s : State} {a : Word} {v : Byte} {n : Nat}
    (h : exec i s = done n (memWrite s a v)) : Spec.stores i s a v s.cpu n := by
  rw [Spec.stores, h, ← memWrite_cpu s a v]
  rfl

theorem storesHl_of_writeHl {i : Instr} {s : State} {v : Byte} {n : Nat}
    (h : exec i s = done n (writeHl v s)) : Spec.storesHl i s v s.cpu.f n := by
  rw [Spec.storesHl, ← Cpu.hl_eq]
  exact stores_of_memWrite h

/-- A write at HL, then a write of HL. -/
theorem stores_of_setHl_writeHl {i : Instr} {s : State} {v : Byte} {w : Word} {n : Nat}
    (h : exec i s = done n (setHl w (writeHl v s))) : Spec.stores i s s.cpu.hl v (s.cpu.setHl w) n := by
  exact h.trans (done_setHl n (by rw [writeHl, memWrite_cpu]))

end Sys2Proof.Machine

open Sys2Proof Sys2Proof.Machine

/-- Settles O6: both are a write of one register (`setsReg_of_setR8`). -/
theorem loadRegister : Obligations.LoadRegister := by
  unfold Obligations.LoadRegister
  exact fun _ _ _ _ => ⟨setsReg_of_setR8 rfl, setsReg_of_setR8 rfl⟩

/-- Settles O7: with the addresses of R520 as numbers each load is a write of its register, and HL moves by
`Cpu.setHl_hl_add` and `Cpu.setHl_hl_sub_one`. -/
theorem loadFromMemory : Obligations.LoadFromMemory := by
  unfold Obligations.LoadFromMemory
  intro r n nn s
  simp only [← Cpu.bc_eq, ← Cpu.de_eq, ← highPage_eq, ← readHl_eq_atHl]
  refine ⟨setsReg_of_setR8 rfl, rfl, rfl, rfl, rfl, rfl, ?_, ?_⟩
  · exact done_setHl 8 (Cpu.setHl_hl_add (setA (readHl s) s).cpu 1)
  · exact done_setHl 8 (Cpu.setHl_hl_sub_one (setA (readHl s) s).cpu)

/-- Settles O8: each store is the dispatcher's write at the address of R520 (`stores_of_memWrite`), with the new HL in
the last two (`stores_of_setHl_writeHl`). -/
theorem storeToMemory : Obligations.StoreToMemory := by
  unfold Obligations.StoreToMemory
  intro r n nn s
  simp only [← Cpu.bc_eq, ← Cpu.de_eq, ← Cpu.hl_eq, ← highPage_eq, ← Cpu.setHl_hl_add, ← Cpu.setHl_hl_sub_one]
  exact ⟨storesHl_of_writeHl rfl, storesHl_of_writeHl rfl, stores_of_memWrite rfl, stores_of_memWrite rfl,
    stores_of_memWrite rfl, stores_of_memWrite rfl, stores_of_memWrite rfl, stores_of_setHl_writeHl rfl,
    stores_of_setHl_writeHl rfl⟩

end

section
/-! SUPPORT. The 16-bit loads and the stack in the arithmetic of the statements (41_loads16_stack.md R549 to R556): the
write of one pair, a push and a pop as numbers, and what a pop reads after a push to RAM. -/

namespace Sys2Proof.Machine

/-! ## The write of one pair -/

theorem setsPair_of_setPair {i : Instr} {s : State} {dd : Pair} {v : Word} {n : Nat}
    (h : exec i s = done n (setPair dd v s)) : Spec.setsPair i s dd v s.cpu.f n := by
  refine ⟨_, h, ?_, fun q hq => ?_, ?_⟩
  · simp
  · simp [hq]
  · cases dd <;> rfl

/-- Each pair but AF takes all sixteen bits (R555). -/
theorem Cpu.getStackPair_setStackPair_self (x : Cpu) {qq : StackPair} (v : Word) (h : qq ≠ .af) :
    (x.setStackPair qq v).getStackPair qq = v := by
  cases qq with
  | bc | de | hl => exact mkWord_halves v
  | af => exact absurd rfl h

/-- F takes bits 7 to 4 of the word (R556). -/
theorem Flags.ofByte_loByte (v : Word) : Flags.ofByte (loByte v) =
    { z := v.getLsbD 7, n := v.getLsbD 6, h := v.getLsbD 5, c := v.getLsbD 4 } := by
  simp [Flags.ofByte, loByte]

/-! ## Push and pop as numbers (R549) -/

theorem stackTop_eq_popped (s : State) : stackTop s = Spec.popped s := mkWord_eq _ _

theorem done_push16 (v : Word) (n : Nat) (s : State) :
    done n (push16 v s) = .next (Spec.pushed s v { s.cpu with sp := s.cpu.sp - 2 } n) := by
  rw [push16_eq, hiByte_eq_high, loByte_eq_low]
  rfl

/-! ## Pop after push -/

section
variable {s : State} {j k : Nat} (hj : storeCell s (s.cpu.sp - 1) = some j) (hk : storeCell s (s.cpu.sp - 2) = some k)
include hj hk

/-- A push to RAM stores its two bytes and nothing else (R205). -/
theorem pushed_of_storeCell (v : Word) (x : Cpu) (n : Nat) : Spec.pushed s v x n = { s with
    cpu := x, acct.cycles := n, mem := (s.mem.write j (hiByte v)).write k (loByte v) } := by
  have hwrites : memWrite (memWrite s (s.cpu.sp - 1) (hiByte v)) (s.cpu.sp - 2) (loByte v) =
      { s with mem := (s.mem.write j (hiByte v)).write k (loByte v) } := by
    rw [memWrite_of_storeCell hj]
    exact memWrite_of_storeCell hk
  rw [Spec.pushed, ← hiByte_eq_high, ← loByte_eq_low, hwrites]

/-- Where the two bytes below SP are distinct bytes of RAM, a pop reads the word that was pushed. -/
theorem stackTop_pushed (hjk : j ≠ k) (v : Word) {x : Cpu} (hx : x.sp = s.cpu.sp - 2) (n : Nat) :
    stackTop (Spec.pushed s v x n) = v := by
  have hpushed := pushed_of_storeCell hj hk v x n
  have hcell : ∀ a, storeCell (Spec.pushed s v x n) a = storeCell s a := by
    rw [hpushed]
    exact fun _ => rfl
  have hmem : (Spec.pushed s v x n).mem = (s.mem.write j (hiByte v)).write k (loByte v) := by rw [hpushed]
  have hnext : s.cpu.sp - 2 + 1 = s.cpu.sp - 1 := by bv_omega
  have hlo : memRead (Spec.pushed s v x n) (s.cpu.sp - 2) = loByte v := by
    rw [memRead_of_storeCell ((hcell _).trans hk), hmem, Memory.read_write_self]
  have hhi : memRead (Spec.pushed s v x n) (s.cpu.sp - 1) = hiByte v := by
    rw [memRead_of_storeCell ((hcell _).trans hj), hmem, Memory.read_write_ne _ _ hjk, Memory.read_write_self]
  have hsp : (Spec.pushed s v x n).cpu.sp = s.cpu.sp - 2 := hx
  rw [stackTop, hsp, hnext, hhi, hlo, mkWord_halves]

end

end Sys2Proof.Machine

open Sys2Proof Sys2Proof.Machine

/-- Settles O11: the pop reads the word pushed (`stackTop_pushed`), and its pair takes it; for POP AF the flags take the
upper half of its low byte. -/
theorem popAfterPush : Obligations.PopAfterPush := by
  unfold Obligations.PopAfterPush
  intro qq qq' s t j k hj hk hjk hpush hqq
  cases (done_push16 _ 16 s).symm.trans hpush
  have htop := stackTop_pushed hj hk hjk (s.cpu.getStackPair qq) (x := { s.cpu with sp := s.cpu.sp - 2 }) rfl 16
  have hsp : s.cpu.sp - 2 + 2 = s.cpu.sp := BitVec.sub_add_cancel _ _
  refine ⟨_, rfl, ?_, ?_, _, rfl, hsp, ?_, ?_⟩
  · exact (Cpu.getStackPair_setStackPair_self _ _ hqq).trans htop
  · exact (Cpu.setStackPair_frame _ qq' _).1.trans hsp
  · exact (congrArg hiByte htop).trans (hiByte_eq_high _)
  · refine (toNat_toByte_ofByte _).trans ?_
    rw [htop, loByte_eq_low, Spec.low, BitVec.toNat_ofNat, Nat.mod_mod]

/-- Settles O27: the return reads the PC that the call pushed (`stackTop_pushed`), and SP comes back. -/
theorem returnAfterCall : Obligations.ReturnAfterCall := by
  unfold Obligations.ReturnAfterCall
  intro nn s t j k hj hk hjk hcall
  cases (done_call nn 24 s).symm.trans hcall
  have htop := stackTop_pushed hj hk hjk s.cpu.pc (x := { s.cpu with sp := s.cpu.sp - 2, pc := nn }) rfl 24
  have hsp : s.cpu.sp - 2 + 2 = s.cpu.sp := BitVec.sub_add_cancel _ _
  have hreturn : (returnPc (Spec.pushed s s.cpu.pc { s.cpu with sp := s.cpu.sp - 2, pc := nn } 24)).cpu = s.cpu := by
    rw [returnPc_cpu, htop]
    exact congrArg (fun a => { s.cpu with sp := a }) hsp
  exact ⟨_, _, rfl, hreturn, rfl, congrArg (fun x => { x with ime := true }) hreturn⟩

/-- Settles O9: a load is a write of its pair (`setsPair_of_setPair`), and the halves of SP are stored low byte first. -/
theorem load16 : Obligations.Load16 := by
  unfold Obligations.Load16
  intro dd nn s
  simp only [← Cpu.hl_eq, ← hiByte_eq_high, ← loByte_eq_low]
  exact ⟨setsPair_of_setPair rfl, rfl, rfl⟩

/-- Settles O10: each push is `done_push16` for the two halves of its pair, and each pop is a write of its pair. -/
theorem pushPop : Obligations.PushPop := by
  unfold Obligations.PushPop
  intro s
  constructor
  · intro hi lo qq hqq
    rw [← mkWord_eq]
    simp only [List.mem_cons, List.not_mem_nil, or_false, Prod.mk.injEq] at hqq
    rcases hqq with ⟨rfl, rfl, rfl⟩ | ⟨rfl, rfl, rfl⟩ | ⟨rfl, rfl, rfl⟩ | ⟨rfl, rfl, rfl⟩ <;> exact done_push16 _ 16 s
  · simp only [← stackTop_eq_popped, ← hiByte_eq_high, ← loByte_eq_low, ← Flags.ofByte_loByte]
    exact ⟨rfl, rfl, rfl, rfl⟩

end

section
/-! SUPPORT. The 8-bit arithmetic and logic in the arithmetic of the statements (42_alu8.md R600 to R653): each
operation of `alu8` on numbers, INC and DEC as an addition of 1 and of 255, and DAA on numbers and on the decimal
coding. -/

namespace Sys2Proof.Machine

/-! ## Results and flags (R600 to R603) -/

theorem ofNat_eq_zero_iff (k : Nat) : BitVec.ofNat 8 k = 0 ↔ k % 256 = 0 := by
  rw [← BitVec.toNat_inj, BitVec.toNat_ofNat]
  rfl

/-- The integer difference modulo 256 is the natural difference with 512 added first, which never goes below 0. -/
theorem sub8_r (a b : Byte) (cin : Bool) :
    (sub8 a b cin).r = BitVec.ofNat 8 (a.toNat + 512 - b.toNat - cin.toNat) := by
  have hb := b.isLt
  have hcin := cin.toNat_le
  apply BitVec.eq_of_toNat_eq
  simp only [sub8, BitVec.toNat_ofInt, BitVec.toNat_ofNat]
  omega

theorem addFlags_add8 (a b : Byte) (cin : Bool) :
    addFlags (add8 a b cin) = Spec.sumFlags a.toNat b.toNat cin.toNat := by
  simp only [addFlags, add8, Spec.sumFlags, ofNat_eq_zero_iff]

theorem subFlags_sub8 (a b : Byte) (cin : Bool) :
    subFlags (sub8 a b cin) = Spec.diffFlags a.toNat b.toNat cin.toNat := by
  simp only [subFlags, sub8_r, Spec.diffFlags, ofNat_eq_zero_iff]
  rfl

theorem logicFlags_eq_bitwiseFlags (r : Byte) (half : Bool) : logicFlags r half = Spec.bitwiseFlags r half := by
  simp only [logicFlags, Spec.bitwiseFlags, ← BitVec.toNat_inj]
  rfl

/-! ## The accumulator operations -/

/-- What `alu8` computes is all that an accumulator operation changes. -/
theorem setsA_of_aluA {i : Instr} {s : State} {op : AluOp} {b w : Byte} {f : Flags} {n : Nat}
    (h : exec i s = done n (aluA op b s)) (hr : alu8 op s.cpu.f.c s.cpu.a b = (w, f)) : Spec.setsA i s w f n := by
  rw [Spec.setsA, h, aluA, hr]
  rfl

section
variable {i : Instr} {s : State} {b : Byte} {n : Nat}

theorem adds_of_add (h : exec i s = done n (aluA .add b s)) : Spec.adds i s b 0 n :=
  setsA_of_aluA h (congrArg (Prod.mk _) (addFlags_add8 s.cpu.a b false))

theorem adds_of_adc (h : exec i s = done n (aluA .adc b s)) : Spec.adds i s b s.cpu.f.c.toNat n :=
  setsA_of_aluA h (congrArg (Prod.mk _) (addFlags_add8 s.cpu.a b s.cpu.f.c))

theorem subtracts_of_sub (h : exec i s = done n (aluA .sub b s)) : Spec.subtracts i s b 0 n :=
  setsA_of_aluA h (congrArg₂ Prod.mk (sub8_r s.cpu.a b false) (subFlags_sub8 s.cpu.a b false))

theorem subtracts_of_sbc (h : exec i s = done n (aluA .sbc b s)) : Spec.subtracts i s b s.cpu.f.c.toNat n :=
  setsA_of_aluA h (congrArg₂ Prod.mk (sub8_r s.cpu.a b s.cpu.f.c) (subFlags_sub8 s.cpu.a b s.cpu.f.c))

theorem compares_of_cp (h : exec i s = done n (aluA .cp b s)) : Spec.compares i s b n :=
  setsA_of_aluA h (congrArg (Prod.mk _) (subFlags_sub8 s.cpu.a b false))

end

/-! ## The bitwise operations -/

theorem sum_testBit (x n : Nat) :
    ((List.range n).map fun k => if x.testBit k then 2 ^ k else 0).sum = x % 2 ^ n := by
  induction n with
  | zero => simp [Nat.mod_one]
  | succ n ih =>
    rw [List.range_succ, List.map_append, List.sum_append, ih, Nat.mod_pow_succ]
    rcases Nat.mod_two_eq_zero_or_one (x / 2 ^ n) with h | h <;> simp [Nat.testBit_eq_decide_div_mod_eq, h]

/-- A byte is put together again from its bits. -/
theorem ofBits_getLsbD (v : Byte) : Spec.ofBits (fun k => v.getLsbD k) = v := by
  have h : Spec.ofBits (fun k => v.getLsbD k) = BitVec.ofNat 8 (v.toNat % 2 ^ 8) :=
    congrArg (BitVec.ofNat 8) (sum_testBit v.toNat 8)
  rw [h, Nat.mod_eq_of_lt v.isLt, BitVec.ofNat_toNat, BitVec.setWidth_eq]

theorem combines_of_aluA {i : Instr} {s : State} {op : AluOp} {b w : Byte} {f : Bool → Bool → Bool} {half : Bool}
    {n : Nat} (h : exec i s = done n (aluA op b s)) (hr : alu8 op s.cpu.f.c s.cpu.a b = (w, logicFlags w half))
    (hw : ∀ k, w.getLsbD k = f (s.cpu.a.getLsbD k) (b.getLsbD k)) : Spec.combines i s b f half n := by
  have hbits : Spec.ofBits (fun k => f (s.cpu.a.getLsbD k) (b.getLsbD k)) = w := by
    rw [← funext hw, ofBits_getLsbD]
  rw [Spec.combines, hbits, ← logicFlags_eq_bitwiseFlags]
  exact setsA_of_aluA h hr

section
variable {i : Instr} {s : State} {b : Byte} {n : Nat}

theorem combines_of_and (h : exec i s = done n (aluA .and b s)) : Spec.combines i s b and true n :=
  combines_of_aluA h rfl fun _ => BitVec.getLsbD_and

theorem combines_of_xor (h : exec i s = done n (aluA .xor b s)) : Spec.combines i s b xor false n :=
  combines_of_aluA h rfl fun _ => BitVec.getLsbD_xor

theorem combines_of_or (h : exec i s = done n (aluA .or b s)) : Spec.combines i s b or false n :=
  combines_of_aluA h rfl fun _ => BitVec.getLsbD_or

end

/-! ## INC and DEC (R640 to R643) -/

theorem incFlags_add8 (f : Flags) (v : Byte) : incFlags f (add8 v 1 false) =
    { z := decide (v.toNat = 255), n := false, h := decide (v.toNat % 16 = 15), c := f.c } := by
  have hzero : (v.toNat + 1) % 256 = 0 ↔ v.toNat = 255 := by have := v.isLt; omega
  have hhalf : v.toNat % 16 + 1 > 15 ↔ v.toNat % 16 = 15 := by omega
  simp only [← hzero, ← hhalf, ← ofNat_eq_zero_iff]
  rfl

theorem decFlags_sub8 (f : Flags) (v : Byte) : decFlags f (sub8 v 1 false) =
    { z := decide (v.toNat = 1), n := true, h := decide (v.toNat % 16 = 0), c := f.c } := by
  have hzero : (v.toNat + 512 - 1) % 256 = 0 ↔ v.toNat = 1 := by have := v.isLt; omega
  have hhalf : v.toNat % 16 < 1 ↔ v.toNat % 16 = 0 := Nat.lt_one_iff
  simp only [← hzero, ← hhalf, ← ofNat_eq_zero_iff, decFlags, sub8_r]
  rfl

/-- One less modulo 256 is 255 more. -/
theorem sub8_one_r (v : Byte) : (sub8 v 1 false).r = BitVec.ofNat 8 (v.toNat + 255) := by
  rw [sub8_r]
  apply BitVec.eq_of_toNat_eq
  simp only [BitVec.ofNat_eq_ofNat, BitVec.toNat_ofNat, Bool.toNat_false]
  omega

theorem done_setFlags {s : State} {x : Cpu} (f : Flags) (n : Nat) (h : s.cpu = x) :
    done n (setFlags f s) = .next { s with cpu := { x with f := f }, acct.cycles := n } := by
  rw [← h]
  rfl

/-- A write at HL leaves the processor as it is (R205), and then the flags change. -/
theorem storesHl_of_setFlags_writeHl {i : Instr} {s : State} {v : Byte} {f : Flags} {n : Nat}
    (h : exec i s = done n (setFlags f (writeHl v s))) : Spec.storesHl i s v f n := by
  rw [Spec.storesHl, ← Cpu.hl_eq, Spec.stores, h]
  exact done_setFlags f n (memWrite_cpu s s.cpu.hl v)

/-! ## DAA (R650) on numbers -/

/-- DAA's correction reaches the tens: by the carry, or after an addition by a value above 0x99. -/
def daaTens (f : Flags) (a : Nat) : Bool := f.c || (!f.n && decide (a > 0x99))

/-- DAA's correction reaches the units: by the half carry, or after an addition by a digit above 9. -/
def daaUnits (f : Flags) (a : Nat) : Bool := f.h || (!f.n && decide (a % 16 > 9))

def daaFix (f : Flags) (a : Nat) : Nat := (if daaTens f a then 0x60 else 0) + if daaUnits f a then 0x06 else 0

/-- A after DAA, as a number. -/
def daaValue (f : Flags) (a : Nat) : Nat :=
  if f.n then (a + 256 - daaFix f a) % 256 else (a + daaFix f a) % 256

theorem toNat_add_fix (a : Byte) (tens units : Bool) :
    (a + (if tens then 0x60 else 0x00) + (if units then 0x06 else 0x00)).toNat =
      (a.toNat + ((if tens then 0x60 else 0) + if units then 0x06 else 0)) % 256 := by
  cases tens <;> cases units <;> simp [Nat.add_assoc, Nat.mod_eq_of_lt a.isLt]

theorem toNat_sub_fix (a : Byte) (tens units : Bool) :
    (a - (if tens then 0x60 else 0x00) - (if units then 0x06 else 0x00)).toNat =
      (a.toNat + 256 - ((if tens then 0x60 else 0) + if units then 0x06 else 0)) % 256 := by
  cases tens <;> cases units <;> simp <;> omega

theorem daaResult_toNat (a : Byte) (f : Flags) : (daaResult a f).1.toNat = daaValue f a.toNat := by
  rcases f with ⟨z, n, h, c⟩
  cases n with
  | false => exact toNat_add_fix a _ _
  | true =>
    simp only [daaValue, daaFix, daaTens, daaUnits]
    exact (toNat_sub_fix a _ _).trans (by simp)

theorem daaResult_snd (a : Byte) (f : Flags) : (daaResult a f).2 =
    { z := decide ((daaResult a f).1 = 0), n := f.n, h := false, c := daaTens f a.toNat } := by
  rcases f with ⟨z, n, h, c⟩
  cases n with
  | false => rfl
  | true => simp [daaResult, daaTens]

/-- R650 on numbers. -/
theorem daaResult_eq (a : Byte) (f : Flags) : daaResult a f = (BitVec.ofNat 8 (daaValue f a.toNat),
    { z := decide (daaValue f a.toNat = 0), n := f.n, h := false, c := daaTens f a.toNat }) := by
  have hr : (daaResult a f).1 = BitVec.ofNat 8 (daaValue f a.toNat) := by simp [← daaResult_toNat]
  have hz : (daaResult a f).1 = 0 ↔ daaValue f a.toNat = 0 := by
    rw [← daaResult_toNat, ← BitVec.toNat_inj]
    rfl
  refine Prod.ext hr ?_
  simp only [daaResult_snd, hz]

theorem daa_of_exec {t u : State} (h : exec .daa t = .next u) :
    u.cpu.a.toNat = daaValue t.cpu.f t.cpu.a.toNat ∧ u.cpu.f.c = daaTens t.cpu.f t.cpu.a.toNat := by
  cases h
  exact ⟨daaResult_toNat _ _, congrArg Flags.c (daaResult_snd _ _)⟩

theorem not_eq_ofNat (a : Byte) : ~~~a = BitVec.ofNat 8 (255 - a.toNat) := by
  apply BitVec.eq_of_toNat_eq
  simp only [BitVec.toNat_not, BitVec.toNat_ofNat]
  omega

/-! ## DAA in the decimal coding -/

/-- The decimal coding of a number below 100: the tens in the upper half, the units in the lower. -/
def decimal (x : Nat) : Nat := x / 10 * 16 + x % 10

theorem decimal_mod (k : Nat) : decimal (k % 100) = k % 100 / 10 * 16 + k % 10 := by
  rw [decimal, Nat.mod_mod_of_dvd k (by decide)]

theorem toNat_ofNat_decimal {y : Nat} (hy : y < 100) : (BitVec.ofNat 8 (decimal y)).toNat = decimal y :=
  Nat.mod_eq_of_lt (by rw [decimal]; omega)

theorem daaTens_diff (x y a : Nat) : daaTens (Spec.diffFlags (decimal x) (decimal y) 0) a = decide (x < y) := by
  have hiff : decimal x < decimal y ↔ x < y := by
    unfold decimal
    omega
  simp [daaTens, Spec.diffFlags, hiff]

theorem daaUnits_diff (x y a : Nat) :
    daaUnits (Spec.diffFlags (decimal x) (decimal y) 0) a = decide (x % 10 < y % 10) := by
  have hiff : decimal x % 16 < decimal y % 16 ↔ x % 10 < y % 10 := by
    unfold decimal
    omega
  simp [daaUnits, Spec.diffFlags, hiff]

theorem daaTens_sum (x y : Nat) : daaTens (Spec.sumFlags (decimal x) (decimal y) 0) ((decimal x + decimal y) % 256) =
    decide (x + y ≥ 100) := by
  have hsum : decimal x + decimal y > 0x99 ↔ x + y ≥ 100 := by
    unfold decimal
    omega
  have hiff : decimal x + decimal y > 255 ∨ (decimal x + decimal y) % 256 > 0x99 ↔ x + y ≥ 100 := by omega
  simp [daaTens, Spec.sumFlags, ← hiff]

theorem daaUnits_sum (x y : Nat) : daaUnits (Spec.sumFlags (decimal x) (decimal y) 0) ((decimal x + decimal y) % 256) =
    decide (x % 10 + y % 10 ≥ 10) := by
  have hiff : decimal x % 16 + decimal y % 16 > 15 ∨ (decimal x + decimal y) % 256 % 16 > 9 ↔
      x % 10 + y % 10 ≥ 10 := by
    unfold decimal
    omega
  simp [daaUnits, Spec.sumFlags, ← hiff]

section
variable {x y : Nat} (hx : x < 100) (hy : y < 100)
include hx hy

theorem daaValue_sum : daaValue (Spec.sumFlags (decimal x) (decimal y) 0) ((decimal x + decimal y) % 256) =
    decimal ((x + y) % 100) := by
  simp only [daaValue, daaFix, daaTens_sum, daaUnits_sum, decide_eq_true_eq]
  simp only [Spec.sumFlags, decimal, Bool.false_eq_true, if_false]
  split <;> split <;> omega

theorem daaValue_diff : daaValue (Spec.diffFlags (decimal x) (decimal y) 0) ((decimal x + 512 - decimal y) % 256) =
    decimal ((x + 100 - y) % 100) := by
  simp only [daaValue, daaFix, daaTens_diff, daaUnits_diff, decide_eq_true_eq]
  simp only [Spec.diffFlags, decimal, if_true]
  split <;> split <;> omega

variable {b : Byte} {s t u : State} (ha : s.cpu.a.toNat = decimal x) (hb : b.toNat = decimal y)
include ha hb

theorem daa_after_add (hadd : exec (.addAN b) s = .next t) (hdaa : exec .daa t = .next u) :
    u.cpu.a.toNat = decimal ((x + y) % 100) ∧ u.cpu.f.c = decide (x + y ≥ 100) := by
  cases (adds_of_add rfl : Spec.adds (.addAN b) s b 0 8).symm.trans hadd
  obtain ⟨hval, hc⟩ := daa_of_exec hdaa
  simp only [ha, hb, BitVec.toNat_ofNat] at hval hc
  exact ⟨hval.trans (daaValue_sum hx hy), hc.trans (daaTens_sum x y)⟩

theorem daa_after_sub (hsub : exec (.subN b) s = .next t) (hdaa : exec .daa t = .next u) :
    u.cpu.a.toNat = decimal ((x + 100 - y) % 100) ∧ u.cpu.f.c = decide (x < y) := by
  cases (subtracts_of_sub rfl : Spec.subtracts (.subN b) s b 0 8).symm.trans hsub
  obtain ⟨hval, hc⟩ := daa_of_exec hdaa
  simp only [ha, hb, BitVec.toNat_ofNat] at hval hc
  exact ⟨hval.trans (daaValue_diff hx hy), hc.trans (daaTens_diff x y _)⟩

end

end Sys2Proof.Machine

open Sys2Proof Sys2Proof.Machine

/-- Settles O15: the operation of `alu8` acts on each bit, and a byte is put together from its bits
(`ofBits_getLsbD`). -/
theorem andXorOr : Obligations.AndXorOr := by
  unfold Obligations.AndXorOr
  intro r n s
  simp only [← readHl_eq_atHl]
  exact ⟨combines_of_and rfl, combines_of_and rfl, combines_of_and rfl, combines_of_xor rfl, combines_of_xor rfl,
    combines_of_xor rfl, combines_of_or rfl, combines_of_or rfl, combines_of_or rfl⟩

/-- Settles O17: DAA by its result on numbers (`daaResult_eq`), and CPL by `not_eq_ofNat`. -/
theorem accumulatorAdjust : Obligations.AccumulatorAdjust := by
  unfold Obligations.AccumulatorAdjust
  intro s
  refine ⟨?_, ?_, rfl, rfl⟩
  · change done 4 (setFlags (daaResult s.cpu.a s.cpu.f).2 (setA (daaResult s.cpu.a s.cpu.f).1 s)) = _
    rw [daaResult_eq]
    rfl
  · rw [← not_eq_ofNat]
    rfl

/-- Settles O18: DAA corrects the units and the tens exactly where the decimal operation carries or borrows
(`daaTens_sum`, `daaUnits_sum`, `daaTens_diff`, `daaUnits_diff`). -/
theorem daaIsDecimal : Obligations.DaaIsDecimal := by
  unfold Obligations.DaaIsDecimal
  intro x y s t u hx hy ha
  rw [← decimal_mod, ← decimal_mod]
  have hb : (BitVec.ofNat 8 (y / 10 * 16 + y % 10)).toNat = decimal y := toNat_ofNat_decimal hy
  exact ⟨daa_after_add hx hy ha hb, daa_after_sub hx hy ha hb⟩

/-- Settles O13: the flags of `add8` are those of the exact sums (`addFlags_add8`), in each operand form. -/
theorem addAdc : Obligations.AddAdc := by
  unfold Obligations.AddAdc
  intro r n s
  simp only [← readHl_eq_atHl]
  exact ⟨adds_of_add rfl, adds_of_add rfl, adds_of_add rfl, adds_of_adc rfl, adds_of_adc rfl, adds_of_adc rfl⟩

/-- Settles O14: the result and the flags of `sub8` are those of the exact differences (`sub8_r`, `subFlags_sub8`), in
each operand form. -/
theorem subSbcCp : Obligations.SubSbcCp := by
  unfold Obligations.SubSbcCp
  intro r n s
  simp only [← readHl_eq_atHl]
  exact ⟨subtracts_of_sub rfl, subtracts_of_sub rfl, subtracts_of_sub rfl, subtracts_of_sbc rfl, subtracts_of_sbc rfl,
    subtracts_of_sbc rfl, compares_of_cp rfl, compares_of_cp rfl, compares_of_cp rfl⟩

/-- Settles O16: INC and DEC are `add8` and `sub8` with operand 1 and Cf kept (`incFlags_add8`, `decFlags_sub8`), as a
write of a register or at HL. -/
theorem incDec8 : Obligations.IncDec8 := by
  unfold Obligations.IncDec8
  intro r s
  simp only [← readHl_eq_atHl, ← incFlags_add8, ← decFlags_sub8, ← sub8_one_r]
  exact ⟨setsReg_of_setFlags_setR8 rfl, setsReg_of_setFlags_setR8 rfl, storesHl_of_setFlags_writeHl rfl,
    storesHl_of_setFlags_writeHl rfl⟩

end

section
/-! SUPPORT. The 16-bit arithmetic in the arithmetic of the statements (43_alu16.md R701 to R703): the write of one pair
with its flags, and one more and one less on numbers. -/

namespace Sys2Proof.Machine

/-- A write of pair dd and the flags changes nothing else. -/
theorem setsPair_of_setFlags_setPair {i : Instr} {s : State} {dd : Pair} {v : Word} {f : Flags} {n : Nat}
    (h : exec i s = done n (setFlags f (setPair dd v s))) : Spec.setsPair i s dd v f n := by
  refine ⟨_, h, ?_, fun q hq => ?_, ?_⟩
  · simp
  · simp [hq]
  · cases dd <;> rfl

theorem add_one_eq_ofNat (v : Word) : v + 1 = BitVec.ofNat 16 (v.toNat + 1) := BitVec.eq_of_toNat_eq rfl

/-- One less modulo 65536 is 65535 more. -/
theorem sub_one_eq_ofNat (v : Word) : v - 1 = BitVec.ofNat 16 (v.toNat + 65535) := by
  apply BitVec.eq_of_toNat_eq
  rw [BitVec.toNat_sub, BitVec.toNat_ofNat, Nat.add_comm]
  rfl

end Sys2Proof.Machine

open Sys2Proof Sys2Proof.Machine

/-- Settles O19: each form is a write of one pair, ADD HL,dd with the flags of `add16`
(`setsPair_of_setFlags_setPair`), INC dd and DEC dd with the flags kept (`setsPair_of_setPair`). -/
theorem arithmetic16 : Obligations.Arithmetic16 := by
  unfold Obligations.Arithmetic16
  intro dd s
  simp only [← add_one_eq_ofNat, ← sub_one_eq_ofNat]
  exact ⟨setsPair_of_setFlags_setPair rfl, setsPair_of_setPair rfl, setsPair_of_setPair rfl⟩

end

section
/-! SUPPORT. The rotates, shifts and bit operations in the arithmetic of the statements (44_rotate_shift_bit.md R750 to
R785): a rotate or shift as seven bits of the operand beside one bit shifted in, and a bit cleared or set as a power of
two taken away or added. -/

namespace Sys2Proof.Machine

/-! ## Bits as numbers -/

/-- A bit of a byte as a number is the bit of its number. -/
theorem toNat_getLsbD (v : Byte) (k : Nat) : (v.getLsbD k).toNat = Spec.bitOf v.toNat k := Nat.toNat_testBit v.toNat k

theorem bitOf_eq_zero_or_one (v k : Nat) : Spec.bitOf v k = 0 ∨ Spec.bitOf v k = 1 := Nat.mod_two_eq_zero_or_one _

theorem bitOf_seven (v : Byte) : Spec.bitOf v.toNat 7 = v.toNat / 128 := by
  have := v.isLt
  simp only [Spec.bitOf]
  omega

theorem bitOf_zero (v : Nat) : Spec.bitOf v 0 = v % 2 := by
  rw [Spec.bitOf, Nat.pow_zero, Nat.div_one]

/-! ## Rotates and shifts (R750) -/

/-- The lower seven bits move up and b comes in below. -/
theorem toNat_shiftUp (v : Byte) (b : Bool) :
    (v.extractLsb' 0 7 ++ BitVec.ofBool b).toNat = 2 * v.toNat % 256 + b.toNat := by
  have hb : b.toNat < 2 ^ 1 := b.toNat_lt
  rw [BitVec.toNat_append, BitVec.toNat_ofBool, ← Nat.shiftLeft_add_eq_or_of_lt hb, BitVec.extractLsb'_toNat,
    Nat.shiftLeft_eq, Nat.shiftRight_zero]
  omega

/-- The upper seven bits move down and b comes in above. -/
theorem toNat_shiftDown (v : Byte) (b : Bool) :
    (BitVec.ofBool b ++ v.extractLsb' 1 7).toNat = v.toNat / 2 + 128 * b.toNat := by
  have hv := v.isLt
  rw [BitVec.toNat_append, BitVec.toNat_ofBool, ← Nat.shiftLeft_add_eq_or_of_lt (BitVec.isLt _),
    BitVec.extractLsb'_toNat, Nat.shiftLeft_eq, Nat.shiftRight_eq_div_pow]
  omega

theorem toNat_swapHalves (v : Byte) :
    (v.extractLsb' 0 4 ++ v.extractLsb' 4 4).toNat = v.toNat / 16 + 16 * (v.toNat % 16) := by
  have hv := v.isLt
  rw [BitVec.toNat_append, ← Nat.shiftLeft_add_eq_or_of_lt (BitVec.isLt _), BitVec.extractLsb'_toNat,
    BitVec.extractLsb'_toNat, Nat.shiftLeft_eq, Nat.shiftRight_zero, Nat.shiftRight_eq_div_pow]
  omega

/-- The result of R750 on numbers: each operation is `toNat_shiftUp`, `toNat_shiftDown` or `toNat_swapHalves` with its
own bit shifted in. -/
theorem toNat_shift8_fst (op : ShiftOp) (cf : Bool) (v : Byte) :
    (shift8 op cf v).1.toNat = (Spec.shiftValue op cf.toNat v.toNat).1 := by
  cases op with
  | rlc => exact (toNat_shiftUp v _).trans (by rw [toNat_getLsbD, bitOf_seven]; rfl)
  | rrc => exact (toNat_shiftDown v _).trans (by rw [toNat_getLsbD, bitOf_zero]; rfl)
  | rl => exact toNat_shiftUp v cf
  | rr => exact toNat_shiftDown v cf
  | sla => exact toNat_shiftUp v false
  | sra => exact (toNat_shiftDown v _).trans (by rw [toNat_getLsbD, bitOf_seven]; rfl)
  | swap => exact toNat_swapHalves v
  | srl => exact toNat_shiftDown v false

/-- The carry out of R750: bit 7 upwards, bit 0 downwards, none for SWAP. -/
theorem shift8_snd (op : ShiftOp) (cf : Bool) (v : Byte) :
    (shift8 op cf v).2 = (Spec.shiftValue op cf.toNat v.toNat).2 := by
  cases op with
  | rlc | rl | sla => exact getLsbD_seven v
  | rrc | rr | sra | srl => exact getLsbD_zero_eq v
  | swap => rfl

theorem shift8_fst (op : ShiftOp) (cf : Bool) (v : Byte) :
    (shift8 op cf v).1 = BitVec.ofNat 8 (Spec.shiftValue op cf.toNat v.toNat).1 := by
  rw [← toNat_shift8_fst, BitVec.ofNat_toNat, BitVec.setWidth_eq]

theorem shiftFlags_shift8 (op : ShiftOp) (cf : Bool) (v : Byte) :
    shiftFlags (shift8 op cf v).1 (shift8 op cf v).2 =
      { z := decide ((Spec.shiftValue op cf.toNat v.toNat).1 = 0), n := false, h := false
        c := (Spec.shiftValue op cf.toNat v.toNat).2 } := by
  simp only [← toNat_shift8_fst, ← shift8_snd, shiftFlags, ← BitVec.toNat_inj]
  rfl

section
variable {i : Instr} {s : State} {op : ShiftOp}

theorem shiftsReg_of_shiftR {r : Reg8} (h : exec i s = done 8 (shiftR op r s)) : Spec.shiftsReg i s op r := by
  rw [Spec.shiftsReg, ← shift8_fst, ← shiftFlags_shift8]
  exact setsReg_of_setFlags_setR8 h

theorem shiftsHl_of_shiftHl (h : exec i s = done 16 (shiftHl op s)) : Spec.shiftsHl i s op := by
  rw [Spec.shiftsHl, ← readHl_eq_atHl, ← shift8_fst, ← shiftFlags_shift8]
  exact storesHl_of_setFlags_writeHl h

/-- The rotates of A take the flags of R751, not those of the result. -/
theorem setsA_of_shiftA (h : exec i s = done 4 (shiftA op s)) :
    Spec.setsA i s (BitVec.ofNat 8 (Spec.shiftValue op s.cpu.f.c.toNat s.cpu.a.toNat).1)
      { z := false, n := false, h := false, c := (Spec.shiftValue op s.cpu.f.c.toNat s.cpu.a.toNat).2 } 4 := by
  rw [← shift8_fst, ← shift8_snd]
  exact h

end

/-! ## BIT, RES and SET (R780 to R785) -/

/-- The flags of R780 with the bit as a number. -/
theorem bitFlags_eq (f : Flags) (v : Byte) (b : BitVec 3) :
    bitFlags f v b = { z := decide (Spec.bitOf v.toNat b.toNat = 0), n := false, h := true, c := f.c } := by
  rw [bitFlags, ← toNat_getLsbD]
  cases v.getLsbD b.toNat <;> rfl

/-- The mask of bit b is a power of two, for every b below 8. -/
theorem toNat_bitMask (b : BitVec 3) : ((1 : Byte) <<< b.toNat).toNat = 2 ^ b.toNat := by
  have htwoPow : (1 : Byte) <<< b.toNat = BitVec.twoPow 8 b.toNat := (BitVec.twoPow_eq 8 b.toNat).symm
  rw [htwoPow, BitVec.toNat_twoPow_of_lt b.isLt]

theorem toNat_and_bitMask (v : Byte) (b : BitVec 3) :
    (v &&& (1 : Byte) <<< b.toNat).toNat = Spec.bitOf v.toNat b.toNat * 2 ^ b.toNat := by
  rw [BitVec.toNat_and, toNat_bitMask, Nat.and_two_pow, Nat.toNat_testBit, Spec.bitOf]

/-- A byte is the sum of its bits outside a mask and its bits inside. -/
theorem toNat_and_not_add_and (v m : Byte) : (v &&& ~~~m).toNat + (v &&& m).toNat = v.toNat := by
  have hdisjoint : v &&& ~~~m &&& (v &&& m) = 0 := by
    ext k
    cases hm : m[k] <;> simp [hm]
  have hunion : v &&& ~~~m ||| v &&& m = v := by
    ext k
    cases hm : m[k] <;> simp [hm]
  rw [← BitVec.toNat_add_of_and_eq_zero hdisjoint, BitVec.add_eq_or_of_and_eq_zero _ _ hdisjoint, hunion]

/-- Clearing a bit takes away what the bit was worth. -/
theorem toNat_clearBit_add (v : Byte) (b : BitVec 3) :
    (clearBit v b).toNat + Spec.bitOf v.toNat b.toNat * 2 ^ b.toNat = v.toNat := by
  rw [← toNat_and_bitMask]
  exact toNat_and_not_add_and v _

/-- Setting a bit adds its worth to the byte with the bit cleared. -/
theorem toNat_setBit (v : Byte) (b : BitVec 3) : (setBit v b).toNat = (clearBit v b).toNat + 2 ^ b.toNat := by
  rw [← toNat_bitMask, clearBit, setBit]
  generalize (1 : Byte) <<< b.toNat = m
  have houtside : (v ||| m) &&& ~~~m = v &&& ~~~m := by
    ext k
    cases hm : m[k] <;> simp [hm]
  have hinside : (v ||| m) &&& m = m := by
    ext k
    cases hm : m[k] <;> simp [hm]
  rw [← toNat_and_not_add_and (v ||| m) m, houtside, hinside]

theorem clearBit_eq_ofNat (v : Byte) (b : BitVec 3) :
    clearBit v b = BitVec.ofNat 8 (v.toNat - Spec.bitOf v.toNat b.toNat * 2 ^ b.toNat) := by
  rw [← Nat.eq_sub_of_add_eq (toNat_clearBit_add v b), BitVec.ofNat_toNat, BitVec.setWidth_eq]

theorem setBit_eq_ofNat (v : Byte) (b : BitVec 3) :
    setBit v b = BitVec.ofNat 8 (v.toNat + (1 - Spec.bitOf v.toNat b.toNat) * 2 ^ b.toNat) := by
  have hval : (setBit v b).toNat = v.toNat + (1 - Spec.bitOf v.toNat b.toNat) * 2 ^ b.toNat := by
    have hclear := toNat_clearBit_add v b
    rw [toNat_setBit]
    rcases bitOf_eq_zero_or_one v.toNat b.toNat with hbit | hbit <;> rw [hbit] at hclear ⊢ <;> omega
  rw [← hval, BitVec.ofNat_toNat, BitVec.setWidth_eq]

end Sys2Proof.Machine

open Sys2Proof Sys2Proof.Machine

/-- Settles O20: each is `shiftA` with its operation, whose result and carry out are those of R750 on numbers
(`setsA_of_shiftA`). -/
theorem accumulatorRotates : Obligations.AccumulatorRotates := by
  unfold Obligations.AccumulatorRotates
  intro s
  simp only [List.forall_mem_cons]
  exact ⟨setsA_of_shiftA rfl, setsA_of_shiftA rfl, setsA_of_shiftA rfl, setsA_of_shiftA rfl, List.forall_mem_nil _⟩

/-- Settles O21: each is `shiftR` with its operation (`shiftsReg_of_shiftR`). -/
theorem shiftRegister : Obligations.ShiftRegister := by
  unfold Obligations.ShiftRegister
  intro r s
  exact ⟨shiftsReg_of_shiftR rfl, shiftsReg_of_shiftR rfl, shiftsReg_of_shiftR rfl, shiftsReg_of_shiftR rfl,
    shiftsReg_of_shiftR rfl, shiftsReg_of_shiftR rfl, shiftsReg_of_shiftR rfl, shiftsReg_of_shiftR rfl⟩

/-- Settles O22: each is `shiftHl` with its operation (`shiftsHl_of_shiftHl`). -/
theorem shiftMemory : Obligations.ShiftMemory := by
  unfold Obligations.ShiftMemory
  intro s
  exact ⟨shiftsHl_of_shiftHl rfl, shiftsHl_of_shiftHl rfl, shiftsHl_of_shiftHl rfl, shiftsHl_of_shiftHl rfl,
    shiftsHl_of_shiftHl rfl, shiftsHl_of_shiftHl rfl, shiftsHl_of_shiftHl rfl, shiftsHl_of_shiftHl rfl⟩

/-- Settles O23: BIT writes the flags only (`bitFlags_eq`); RES and SET are a write of the byte with its bit cleared or
set (`clearBit_eq_ofNat`, `setBit_eq_ofNat`), with the flags kept. -/
theorem bitResSet : Obligations.BitResSet := by
  unfold Obligations.BitResSet
  intro b r s
  simp only [← readHl_eq_atHl, ← bitFlags_eq, ← clearBit_eq_ofNat, ← setBit_eq_ofNat]
  exact ⟨rfl, rfl, setsReg_of_setR8 rfl, storesHl_of_writeHl rfl, setsReg_of_setR8 rfl, storesHl_of_writeHl rfl⟩

end

section
/-! SUPPORT. The returns in the arithmetic of the statements (45_control.md R807 to R809). -/

namespace Sys2Proof.Machine

/-- A return in n cycles takes PC from the two bytes at SP and moves SP past them (R35, R807). -/
theorem done_returnPc (n : Nat) (s : State) :
    done n (returnPc s) =
      .next { s with cpu.pc := Spec.popped s, cpu.sp := s.cpu.sp + 2, acct.cycles := n } := by
  rw [← stackTop_eq_popped]
  rfl

end Sys2Proof.Machine

open Sys2Proof Sys2Proof.Machine

/-- Settles O26: RET and a taken RET cc are `done_returnPc`; a false condition only takes its cycles, and RETI is the
same return with IME set. -/
theorem returns : Obligations.Returns := by
  unfold Obligations.Returns
  intro cc s
  refine ⟨done_returnPc 16 s, ?_, ?_⟩
  · rw [apply_ite Host.Outcome.next, holds_eq, ← done_returnPc]
    rfl
  · rw [← stackTop_eq_popped]
    rfl

end

section
/-! SUPPORT. The steps that execute nothing: idle ones, the wake from HALT, and the entry into an interrupt; HALT
itself, and the buttons (46_system.md R852 to R860; 60_exceptions.md R902 to R913, R950). -/

namespace Sys2Proof.Machine

/-! ## Idle steps and the wake (R860, R912, R913) -/

/-- A step that neither takes an interrupt nor executes is idle: each kind takes four cycles. -/
theorem idles_of_stepKind {s : State} (h : stepKind s ≠ .service) (h' : stepKind s ≠ .execute) : Spec.idles s := by
  unfold Spec.idles step cpuStep
  simp only [stepKind_beginStep]
  cases hk : stepKind s with
  | locked | stopped | haltIdle => rfl
  | service => exact absurd hk h
  | execute => exact absurd hk h'

theorem idles_of_locked {s : State} (h : s.cpu.locked = true) : Spec.idles s :=
  idles_of_stepKind (by simp [stepKind_eq_service_iff, h]) (by simp [stepKind_eq_execute_iff, h])

theorem idles_of_stopped {s : State} (h : s.cpu.stopped = true) : Spec.idles s :=
  idles_of_stepKind (by simp [stepKind_eq_service_iff, h]) (by simp [stepKind_eq_execute_iff, h])

theorem idles_of_halted {s : State} (h : s.cpu.halted = true) (hp : pending s = 0) : Spec.idles s :=
  idles_of_stepKind (by simp [stepKind_eq_service_iff, hp]) (by simp [stepKind_eq_execute_iff, h, hp])

/-- A step with an interrupt pending clears HALTED before all else (R860, R912). -/
theorem step_of_pending {s : State} (hp : pending s ≠ 0) (hl : s.cpu.locked = false) (ht : s.cpu.stopped = false) :
    step { s with cpu.halted := false } = step s := by
  have hkind : stepKind { s with cpu.halted := false } = stepKind s := by
    have hpending : pending { s with cpu.halted := false } = pending s := rfl
    simp only [stepKind, hpending, hp, and_false]
  have hwake : wake (beginStep { s with cpu.halted := false }) = wake (beginStep s) := rfl
  have hawake : stepKind s = .service ∨ stepKind s = .execute := by
    cases hi : s.cpu.ime with
    | true => exact .inl ((stepKind_eq_service_iff s).mpr ⟨hl, ht, hi, hp⟩)
    | false => exact .inr ((stepKind_eq_execute_iff s).mpr ⟨hl, ht, fun _ => hp, by simp [hi]⟩)
  unfold step cpuStep
  simp only [stepKind_beginStep, hkind, hwake]
  rcases hawake with hk | hk
  · rw [hk]
  · rw [hk]

/-! ## Runs of a locked or stopped processor (R858, R913) -/

/-- The first step of a run. -/
theorem run_succ {M : Host.Core} {s t : M.State} (h : M.step s = .next t) (n : Nat) :
    M.run (n + 1) s = M.run n t := by
  rw [Host.Core.run, h]

theorem cpu_of_idles {s t : State} (hi : Spec.idles s) (h : step s = .next t) : t.cpu = s.cpu := by
  cases hi.symm.trans h
  exact advanceUnits_cpu _ _

theorem run_of_waiting (n : Nat) (s : State) (h : s.cpu.locked = true ∨ s.cpu.stopped = true) :
    ∃ t : State, core.run n s = .next t ∧ t.cpu = s.cpu := by
  induction n generalizing s with
  | zero => exact ⟨s, rfl, rfl⟩
  | succ n ih =>
    have hi : Spec.idles s := h.elim idles_of_locked idles_of_stopped
    obtain ⟨t, ht, -⟩ := step_takes s
    have hcpu := cpu_of_idles hi ht
    obtain ⟨u, hu, hsame⟩ := ih t (by rwa [hcpu])
    exact ⟨u, (run_succ (M := core) ht n).trans hu, hsame.trans hcpu⟩

/-! ## The joypad (R950) -/

/-- Bits 0 to 3 of a button set, and bits 4 to 7. -/
theorem button_groups (v : Byte) :
    (v &&& 0x0F ≠ 0 ↔ ∃ b, b < 4 ∧ v.getLsbD b = true) ∧
    (v >>> 4 ≠ 0 ↔ ∃ b, b < 8 ∧ 4 ≤ b ∧ v.getLsbD b = true) := by
  revert v
  decide +kernel

/-- The condition of `joypad_set` is a press in a selected group. -/
theorem selectedPress_iff (s : State) (buttons : Byte) : Spec.selectedPress s buttons ↔
    (buttons &&& ~~~s.joypad.pressed) &&& 0x0F ≠ 0 ∧ s.joypad.selDir = false ∨
    (buttons &&& ~~~s.joypad.pressed) >>> 4 ≠ 0 ∧ s.joypad.selAction = false := by
  have hnewly {b : Nat} (hb : b < 8) : (buttons &&& ~~~s.joypad.pressed).getLsbD b = true ↔
      buttons.getLsbD b = true ∧ s.joypad.pressed.getLsbD b = false := by
    simp [hb, -BitVec.getLsbD_eq_getElem]
  rw [(button_groups _).1, (button_groups _).2]
  constructor
  · rintro ⟨b, hb, hdown, hup, hsel⟩
    by_cases h4 : b < 4
    · exact .inl ⟨⟨b, h4, (hnewly hb).mpr ⟨hdown, hup⟩⟩, by rwa [if_pos h4] at hsel⟩
    · exact .inr ⟨⟨b, hb, by omega, (hnewly hb).mpr ⟨hdown, hup⟩⟩, by rwa [if_neg h4] at hsel⟩
  · rintro (⟨⟨b, hb, hbit⟩, hsel⟩ | ⟨⟨b, hb, h4, hbit⟩, hsel⟩)
    · obtain ⟨hdown, hup⟩ := (hnewly (by omega)).mp hbit
      exact ⟨b, by omega, hdown, hup, by rwa [if_pos hb]⟩
    · obtain ⟨hdown, hup⟩ := (hnewly hb).mp hbit
      exact ⟨b, hb, hdown, hup, by rwa [if_neg (by omega)]⟩

/-! ## HALT (R852) -/

/-- The condition of the HALT bug. -/
theorem haltBug_iff (s : State) : (s.params.haltBug && !s.cpu.ime && decide (pending s ≠ 0)) = true ↔
    s.params.haltBug = true ∧ s.cpu.ime = false ∧ ¬ Spec.nonePending s := by
  simp [nonePending_iff, and_assoc]

/-! ## The entry into an interrupt (R902 to R911) -/

/-- The interrupt taken is the pending one of the smallest number (R904). -/
theorem firstPending_eq_some {s : State} {q : Source} (h : (pending s).getLsbD q.bit = true)
    (hlow : ∀ p : Source, p.bit < q.bit → (pending s).getLsbD p.bit = false) : firstPending s = some q := by
  unfold firstPending
  cases q with
  | vblank => simp [h]
  | stat => simp [h, hlow .vblank (by decide)]
  | timer => simp [h, hlow .vblank (by decide), hlow .stat (by decide)]
  | serial => simp [h, hlow .vblank (by decide), hlow .stat (by decide), hlow .timer (by decide)]
  | joypad =>
    simp [h, hlow .vblank (by decide), hlow .stat (by decide), hlow .timer (by decide), hlow .serial (by decide)]

theorem exists_source {k : Nat} (hk : k < 5) : ∃ q : Source, q.bit = k := by
  interval_cases k
  exacts [⟨.vblank, rfl⟩, ⟨.stat, rfl⟩, ⟨.timer, rfl⟩, ⟨.serial, rfl⟩, ⟨.joypad, rfl⟩]

theorem Source.bit_lt (q : Source) : q.bit < 5 := by cases q <;> decide

/-- A serviced number is that of the first pending source, whose bit is set. -/
theorem firstPending_of_services {s : State} {k : Nat} (h : Spec.services s k) :
    ∃ q : Source, q.bit = k ∧ firstPending s = some q ∧ s.irq.iflag.getLsbD k = true := by
  obtain ⟨-, -, -, hk, hie, hif, hlow⟩ := h
  obtain ⟨q, rfl⟩ := exists_source hk
  refine ⟨q, rfl, firstPending_eq_some ?_ fun p hp => ?_, hif⟩
  · rw [pending_getLsbD s hk, hie, hif]; rfl
  · rw [pending_getLsbD s p.bit_lt]
    exact eq_false_of_ne_true (by simpa using hlow p.bit hp)

/-- The clearing of a set bit of IF is a subtraction (R911). -/
theorem and_not_bit_eq (q : Source) : ∀ v : BitVec 5, v.getLsbD q.bit = true →
    v &&& ~~~(BitVec.twoPow 5 q.bit) = BitVec.ofNat 5 (v.toNat - 2 ^ q.bit) := by
  cases q <;> decide

/-- A push sees SP and DOUBLE_SPEED of the processor only. -/
theorem pushed_setCpu {s : State} {y : Cpu} (hsp : y.sp = s.cpu.sp) (hd : y.doubleSpeed = s.cpu.doubleSpeed) (v : Word)
    (x : Cpu) (n : Nat) : Spec.pushed { s with cpu := y } v x n = Spec.pushed s v x n := by
  unfold Spec.pushed
  simp only [hsp]
  rw [memWrite_setCpu s y hd, memWrite_setCpu _ y (by rw [memWrite_cpu]; exact hd)]

theorem pushed_wake (s : State) (v : Word) (x : Cpu) (n : Nat) : Spec.pushed (wake s) v x n = Spec.pushed s v x n :=
  pushed_setCpu (s := s) (y := { s.cpu with halted := false }) rfl rfl v x n

/-- The entry is the push of the return address with the vector in PC (R910). -/
theorem enterInterrupt_eq_pushed (q : Source) (n : Nat) (s : State) :
    { enterInterrupt q s with acct.cycles := n } = Spec.pushed (clearPending q s) (serviceReturn s) { s.cpu with
      ime := false, imeDelay := false, haltBugPending := false, sp := s.cpu.sp - 2, pc := q.vector } n := by
  rw [← pushed_setCpu (s := clearPending q s)
    (y := { s.cpu with ime := false, imeDelay := false, haltBugPending := false }) rfl rfl]
  rw [enterInterrupt, push16_eq, hiByte_eq_high, loByte_eq_low]
  rfl

/-- A step that takes an interrupt ends with the advance of the units (R860). -/
theorem step_of_service {s : State} {q : Source} (h : stepKind s = .service) (hq : firstPending s = some q) :
    step s = .next (advanceUnits s.cpu.doubleSpeed
      { enterInterrupt q (wake (beginStep s)) with acct.cycles := Config.serviceCycles }) := by
  simp [step, cpuStep, stepKind_beginStep, h, service, firstPending_wake_beginStep, hq, finishStep]

end Sys2Proof.Machine

open Sys2Proof Sys2Proof.Machine

/-- Settles O28: each effect as written; HALT by whether the condition of the HALT bug holds (`haltBug_iff`). -/
theorem nopDiEiHalt : Obligations.NopDiEiHalt := by
  unfold Obligations.NopDiEiHalt
  intro s
  refine ⟨rfl, rfl, rfl, fun h => ?_, fun h => ?_⟩
  · change done 4 (halt s) = _
    rw [halt, if_pos ((haltBug_iff s).mpr h)]
    rfl
  · change done 4 (halt s) = _
    rw [halt, if_neg (mt (haltBug_iff s).mp h)]
    rfl

/-- Settles O32: an idle step by its kind (`idles_of_stepKind`), and a step with an interrupt pending clears HALTED
before all else (`step_of_pending`). -/
theorem idleAndWake : Obligations.IdleAndWake := by
  unfold Obligations.IdleAndWake
  intro s
  rw [nonePending_iff]
  exact ⟨idles_of_locked, idles_of_stopped, idles_of_halted, fun hl ht _ hp => (step_of_pending hp hl ht).symm⟩

/-- Settles O33: the interrupt taken is the one of the smallest number (`firstPending_of_services`), and its entry is a
push (`enterInterrupt_eq_pushed`). -/
theorem serviceEntry : Obligations.ServiceEntry := by
  unfold Obligations.ServiceEntry
  intro s k h
  obtain ⟨q, rfl, hq, hbit⟩ := firstPending_of_services h
  have hclear : clearPending q (wake (beginStep s)) =
      wake { beginStep s with irq.iflag := BitVec.ofNat 5 (s.irq.iflag.toNat - 2 ^ q.bit) } := by
    rw [← and_not_bit_eq q _ hbit]
    rfl
  rw [step_of_service ((exists_services_iff s).mp ⟨_, h⟩) hq, enterInterrupt_eq_pushed, hclear, pushed_wake]
  rfl

/-- Settles O36: every step of a run is idle (`run_of_waiting`), and `joypad_set` asks for a press in a selected group
(`selectedPress_iff`). -/
theorem lockedAndStopped : Obligations.LockedAndStopped := by
  unfold Obligations.LockedAndStopped
  refine ⟨run_of_waiting, fun s buttons h => ?_, fun s buttons h => ?_⟩
  · exact if_pos ((selectedPress_iff s buttons).mp h)
  · exact if_neg (mt (selectedPress_iff s buttons).mpr h)

/-- Settles O37: `step_takes`. -/
theorem stepTotal : Obligations.StepTotal := step_takes

end

section
/-! SUPPORT. The frame loop as a run of steps (80_host_interface.md R1210 to R1212). -/

namespace Sys2Proof.Machine

/-- The state in which a frame call returns (R1210): the new carry, and the mark of a call (log 14). -/
def endFrame (c : Nat) (s : State) : State := { s with carry := c, frameCalled := true }

theorem elapsed_succ {s t : State} (h : step s = .next t) (n : Nat) :
    Spec.elapsed (n + 1) s = t.acct.normalCycles + Spec.elapsed n t := by
  simp only [Spec.elapsed, h]

section
variable {s t : State} (h : step s = .next t) (n total : Nat)
include h

theorem frameLoop_of_reached (hc : 70224 ≤ t.carry + (total + t.acct.normalCycles)) :
    frameLoop (n + 1) total s = .next (endFrame (t.carry + (total + t.acct.normalCycles) - 70224) t) := by
  have hreach : total + t.acct.normalCycles + t.carry ≥ Config.frameCycles := by
    unfold Config.frameCycles
    omega
  simp only [frameLoop, h, if_pos hreach, endFrame, Nat.add_comm t.carry]
  rfl

theorem frameLoop_of_below (hc : t.carry + (total + t.acct.normalCycles) < 70224) :
    frameLoop (n + 1) total s = frameLoop n (total + t.acct.normalCycles) t := by
  have hbelow : ¬ total + t.acct.normalCycles + t.carry ≥ Config.frameCycles := by
    unfold Config.frameCycles
    omega
  simp only [frameLoop, h, if_neg hbelow]

end

/-- The loop of a frame call, with the total of the earlier steps and room for n more, makes the first k steps from s
whose cycles reach the budget. -/
structure FrameRun (total n k : Nat) (s u : State) : Prop where
  pos : 1 ≤ k
  le : k ≤ n
  run : core.run k s = .next u
  below : ∀ m, m < k → s.carry + (total + Spec.elapsed m s) < 70224
  reached : 70224 ≤ s.carry + (total + Spec.elapsed k s)
  loop : frameLoop n total s = .next (endFrame (s.carry + (total + Spec.elapsed k s) - 70224) u)
  excess : s.carry + (total + Spec.elapsed k s) - 70224 ≤ 8199

/-- The loop ends with the step that reaches the budget. -/
theorem FrameRun.last {total n : Nat} {s t : State} (h : step s = .next t) (htotal : s.carry + total < 70224)
    (hle : t.acct.normalCycles ≤ 8200) (hreach : 70224 ≤ s.carry + (total + t.acct.normalCycles)) :
    FrameRun total (n + 1) 1 s t := by
  have hcarry := carry_of_step h
  have hone : Spec.elapsed 1 s = t.acct.normalCycles := elapsed_succ h 0
  refine ⟨le_rfl, by omega, run_succ (M := core) h 0, fun m hm => ?_, by rwa [hone], ?_, by omega⟩
  · obtain rfl : m = 0 := by omega
    exact htotal
  · rw [hone, ← hcarry]
    exact frameLoop_of_reached h n total (by rwa [hcarry])

/-- A step that does not reach the budget goes before the rest of the loop. -/
theorem FrameRun.cons {total n k : Nat} {s t u : State} (h : step s = .next t) (htotal : s.carry + total < 70224)
    (hbelow : s.carry + (total + t.acct.normalCycles) < 70224)
    (rest : FrameRun (total + t.acct.normalCycles) n k t u) : FrameRun total (n + 1) (k + 1) s u := by
  have hcarry := carry_of_step h
  have hsum (m : Nat) : s.carry + (total + Spec.elapsed (m + 1) s) =
      t.carry + (total + t.acct.normalCycles + Spec.elapsed m t) := by
    rw [elapsed_succ h]
    omega
  refine ⟨by omega, Nat.succ_le_succ rest.le, (run_succ (M := core) h k).trans rest.run, fun m hm => ?_,
    (hsum k).symm ▸ rest.reached, ?_, (hsum k).symm ▸ rest.excess⟩
  · cases m with
    | zero => exact htotal
    | succ m => exact (hsum m).symm ▸ rest.below m (by omega)
  · rw [hsum, frameLoop_of_below h n total (by rwa [hcarry])]
    exact rest.loop

/-- A step takes two cycles or more, so n steps are enough where 2n cycles are. -/
theorem exists_frameRun (n : Nat) {total : Nat} (s : State) (htotal : s.carry + total < 70224)
    (h : 70224 ≤ s.carry + total + 2 * n) : ∃ k u, FrameRun total n k s u := by
  induction n generalizing total s with
  | zero => omega
  | succ n ih =>
    obtain ⟨t, ht, -, htwo, hle⟩ := step_takes s
    by_cases hreach : 70224 ≤ s.carry + (total + t.acct.normalCycles)
    · exact ⟨1, t, .last ht htotal hle hreach⟩
    · have hcarry := carry_of_step ht
      obtain ⟨k, u, hrun⟩ := ih (total := total + t.acct.normalCycles) t (by omega) (by omega)
      exact ⟨k + 1, u, hrun.cons ht htotal (by omega)⟩

/-! ## The cycle table (R1150) -/

/-- The outcome of instruction i in s is a next state in the cycles of its row. -/
def InTime (i : Instr) (s : State) : Prop :=
  ∃ u, exec i s = done (if Spec.untaken i s then (Spec.timing (Spec.form i)).untaken
    else (Spec.timing (Spec.form i)).cycles) u

theorem InTime.branch {i : Instr} {s u v : State} {cc : Cond} {m n : Nat}
    (hexec : exec i s = if s.cpu.f.cond cc then done m u else done n v) (hi : Spec.untaken i s = !Spec.holds s cc)
    (hm : (Spec.timing (Spec.form i)).cycles = m) (hn : (Spec.timing (Spec.form i)).untaken = n) : InTime i s := by
  unfold InTime
  rw [hexec, hi, holds_eq, hm, hn]
  cases s.cpu.f.cond cc with
  | true => exact ⟨u, rfl⟩
  | false => exact ⟨v, rfl⟩

theorem execCbShift_inTime (y : Oct) (operand : Option Reg8) (s : State) :
    ∃ u, execCbShift y operand s = done (Spec.timing (decodeShift y operand)).cycles u := by
  cases operand with
  | some r => cases y <;> exact ⟨_, rfl⟩
  | none => cases y <;> exact ⟨_, rfl⟩

/-- PREFIX CB takes the time of the CB form its second byte selects (R857). -/
theorem exec_prefixCb_inTime (op2 : Byte) (s : State) :
    ∃ u, exec (.prefixCb op2) s = done (Spec.timing (decodeCb op2)).cycles u := by
  change ∃ u, execPrefixCb op2 s = _
  unfold execPrefixCb decodeCb
  generalize (fieldX op2).toNat = x, reg8OfField (fieldZ op2) = operand
  match x, operand with
  | 0, operand => exact execCbShift_inTime _ operand s
  | 1, some _ | 1, none | 2, some _ | 2, none | _ + 3, some _ | _ + 3, none => exact ⟨_, rfl⟩

/-- Every instruction but STOP takes the time of its row, the shorter one where its condition is false. -/
theorem exec_inTime {i : Instr} (hi : ∀ x, i ≠ .stop x) (s : State) : InTime i s := by
  cases i with
  | stop x => exact absurd rfl (hi x)
  | prefixCb op2 => exact exec_prefixCb_inTime op2 s
  | jpCcNn _ _ | jrCcE _ _ | callCcNn _ _ | retCc _ => exact .branch rfl rfl rfl rfl
  | _ => exact ⟨_, rfl⟩

theorem encode_length (i : Instr) : (encode i).length = (Spec.timing i).bytes := by cases i <;> rfl

/-- PREFIX CB is as long as the CB form its second byte selects (R434). -/
theorem encode_length_form (i : Instr) : (encode i).length = (Spec.timing (Spec.form i)).bytes := by
  cases i with
  | prefixCb op2 =>
    rw [show Spec.form (.prefixCb op2) = decodeCb op2 from rfl, ← encode_length, (encode_decodeCb op2).2]
    rfl
  | _ => exact encode_length _

end Sys2Proof.Machine

open Sys2Proof Sys2Proof.Machine

/-- Settles O39: the bytes by `encode_length_form`; the cycles of STOP by its two cases, and those of every other
instruction by `exec_inTime`. -/
theorem cycleTable : Obligations.CycleTable := by
  unfold Obligations.CycleTable
  intro i s t h
  refine ⟨encode_length_form i, ?_⟩
  by_cases hi : ∃ x, i = .stop x
  · obtain ⟨x, rfl⟩ := hi
    change execStop x s = _ at h
    by_cases hs : s.params.mode = .color ∧ s.color.key1Armed = true
    · rw [execStop, if_pos ((stopSwitches_iff s).mpr hs)] at h
      cases h
      exact (if_pos ⟨⟨x, rfl⟩, hs⟩).symm
    · rw [execStop, if_neg (mt (stopSwitches_iff s).mp hs)] at h
      cases h
      exact (if_neg (mt And.right hs)).symm
  · obtain ⟨u, hu⟩ := exec_inTime (fun x hx => hi ⟨x, hx⟩) s
    cases hu.symm.trans h
    exact (if_neg (mt And.left hi)).symm

/-- Settles O38: by induction on the bound, since every step takes two cycles or more (`exists_frameRun`). -/
theorem frameEnds : Obligations.FrameEnds := by
  unfold Obligations.FrameEnds
  intro s hs
  obtain ⟨k, u, h⟩ := exists_frameRun frameStepBound (total := 0) s hs (by unfold frameStepBound; omega)
  have hbelow := h.below
  have hreached := h.reached
  have hloop := h.loop
  have hexcess := h.excess
  simp only [Nat.zero_add] at hbelow hreached hloop hexcess
  exact ⟨k, u, h.pos, h.le, h.run, hbelow, hreached, hloop, hexcess⟩

end

section
/-! SUPPORT. The sprites of a line and the winner at a column (65_ppu.md R1032 to R1035). -/

namespace Sys2Proof.Machine

/-! ## The first ten that cover the line (R1033) -/

/-- The first k elements that meet p are those among the first n, and n is all of them where there are fewer than k. -/
theorem exists_take_filter {α : Type} (p : α → Bool) (l : List α) (k : Nat) :
    ∃ n, n ≤ l.length ∧ (l.filter p).take k = (l.take n).filter p ∧
      (((l.filter p).take k).length < k → n = l.length) := by
  induction l generalizing k with
  | nil => exact ⟨0, le_rfl, by simp, fun _ => rfl⟩
  | cons a l ih =>
    by_cases ha : p a = true
    · cases k with
      | zero => exact ⟨0, Nat.zero_le _, rfl, fun h => absurd h (Nat.not_lt_zero _)⟩
      | succ k =>
        obtain ⟨n, hn, heq, hfew⟩ := ih k
        refine ⟨n + 1, Nat.succ_le_succ hn, ?_, fun h => ?_⟩
        · rw [List.filter_cons_of_pos ha, List.take_succ_cons, List.take_succ_cons, List.filter_cons_of_pos ha, heq]
        · rw [List.filter_cons_of_pos ha, List.take_succ_cons, List.length_cons] at h
          rw [List.length_cons, hfew (Nat.lt_of_succ_lt_succ h)]
    · obtain ⟨n, hn, heq, hfew⟩ := ih k
      refine ⟨n + 1, Nat.succ_le_succ hn, ?_, fun h => ?_⟩
      · rw [List.filter_cons_of_neg ha, List.take_succ_cons, List.filter_cons_of_neg ha, heq]
      · rw [List.filter_cons_of_neg ha] at h
        rw [List.length_cons, hfew h]

/-- The entry covers the line (R1033). -/
def Sprite.Covers (s : State) (line : Nat) (p : Sprite) : Prop :=
  p.y.toNat ≤ line + 16 ∧ line + 16 < p.y.toNat + spriteHeight s.ppu

/-- The sprites of a line are the covering ones among the first n entries. -/
theorem exists_lineSprites (s : State) (line : Nat) : ∃ n, n ≤ 40 ∧
    (∀ p, p ∈ lineSprites s line ↔ (∃ i, i < n ∧ spriteAt s i = p) ∧ p.Covers s line) ∧
    (lineSprites s line).Sublist ((List.range n).map (spriteAt s)) ∧
    ((lineSprites s line).length < 10 → n = 40) := by
  obtain ⟨n, hn, heq, hfew⟩ := exists_take_filter
    (fun p => decide (p.y.toNat ≤ line + 16 ∧ line + 16 < p.y.toNat + spriteHeight s.ppu))
    ((List.range 40).map (spriteAt s)) 10
  rw [List.length_map, List.length_range] at hn hfew
  rw [← List.map_take, List.take_range, Nat.min_eq_left hn] at heq
  change lineSprites s line = _ at heq
  refine ⟨n, hn, fun p => ?_, ?_, hfew⟩
  · simp [heq, Sprite.Covers]
  · rw [heq]
    exact List.filter_sublist

/-! ## The winner (R1035) -/

/-- q wins in l: with a smaller X than those before it and no greater one than those after it in monochrome mode, the
first in color mode. -/
def Wins (mode : HwMode) (l : List SpritePixel) (q : SpritePixel) : Prop :=
  ∃ before after, l = before ++ q :: after ∧
    (∀ p ∈ before, mode = .monochrome ∧ q.sprite.x.toNat < p.sprite.x.toNat) ∧
    (∀ p ∈ after, mode = .monochrome → q.sprite.x.toNat ≤ p.sprite.x.toNat)

/-- One more candidate. -/
theorem Wins.betterSprite {mode : HwMode} {l : List SpritePixel} {q : SpritePixel} (h : Wins mode l q)
    (r : SpritePixel) : Wins mode (l ++ [r]) (betterSprite mode q r) := by
  obtain ⟨before, after, rfl, hbefore, hafter⟩ := h
  by_cases hr : mode = .monochrome ∧ r.sprite.x.toNat < q.sprite.x.toNat
  · obtain ⟨rfl, hlt⟩ := hr
    have hbest : Machine.betterSprite .monochrome q r = r := if_pos hlt
    refine ⟨before ++ q :: after, [], by rw [hbest], fun p hp => ⟨rfl, ?_⟩, by simp⟩
    rw [hbest]
    rcases List.mem_append.mp hp with hp | hp
    · exact hlt.trans (hbefore p hp).2
    · rcases List.mem_cons.mp hp with rfl | hp
      · exact hlt
      · exact hlt.trans_le (hafter p hp rfl)
  · have hbest : Machine.betterSprite mode q r = q := by
      unfold Machine.betterSprite
      split
      · exact if_neg fun hlt => hr ⟨rfl, hlt⟩
      · rfl
    rw [hbest]
    refine ⟨before, after ++ [r], by simp, hbefore, fun p hp hm => ?_⟩
    rcases List.mem_append.mp hp with hp | hp
    · exact hafter p hp hm
    · obtain rfl := List.mem_singleton.mp hp
      exact Nat.le_of_not_lt fun hlt => hr ⟨hm, hlt⟩

theorem wins_of_bestSprite {mode : HwMode} {l : List SpritePixel} {q : SpritePixel} (h : bestSprite mode l = some q) :
    Wins mode l q := by
  cases l with
  | nil => cases h
  | cons a rest =>
    cases h
    induction rest using List.reverseRecOn with
    | nil => exact ⟨[], [], rfl, by simp, by simp⟩
    | append_singleton rest r ih =>
      rw [List.foldl_append]
      exact ih.betterSprite r

theorem bestSprite_eq_none_iff (mode : HwMode) (l : List SpritePixel) : bestSprite mode l = none ↔ l = [] := by
  cases l <;> simp [bestSprite]

/-- The candidates at a column: the sprites of the line that are opaque there. -/
def candidates (s : State) (line : Nat) (sprites : List Sprite) (x : Nat) : List SpritePixel :=
  (sprites.map fun p => { sprite := p, index := spriteIndex s line p x }).filter fun q => decide (q.index ≠ 0)

theorem winningSprite_of_on {s : State} (h : s.ppu.lcdc.getLsbD 1 = true) (line : Nat) (sprites : List Sprite)
    (x : Nat) : winningSprite s line sprites x = bestSprite s.params.mode (candidates s line sprites x) := if_pos h

theorem winningSprite_of_off {s : State} (h : s.ppu.lcdc.getLsbD 1 = false) (line : Nat) (sprites : List Sprite)
    (x : Nat) : winningSprite s line sprites x = none := if_neg (Bool.eq_false_iff.mp h)

theorem winningSprite_eq_none_iff (s : State) (line : Nat) (sprites : List Sprite) (x : Nat) :
    winningSprite s line sprites x = none ↔
      s.ppu.lcdc.getLsbD 1 = false ∨ ∀ p ∈ sprites, spriteIndex s line p x = 0 := by
  cases h : s.ppu.lcdc.getLsbD 1 with
  | false => simp only [winningSprite_of_off h, true_or]
  | true => simp [winningSprite_of_on h, bestSprite_eq_none_iff, candidates]

/-- Where the winner splits the candidates, its sprite splits the sprites of the line. -/
theorem exists_split_of_candidates {s : State} {line x : Nat} {sprites : List Sprite} {before after : List SpritePixel}
    {q : SpritePixel} (h : candidates s line sprites x = before ++ q :: after) :
    q.index = spriteIndex s line q.sprite x ∧ q.index ≠ 0 ∧ ∃ l r, sprites = l ++ q.sprite :: r ∧
      candidates s line l x = before ∧ candidates s line r x = after := by
  unfold candidates at h
  obtain ⟨u, v, huv, hbefore, hv⟩ := List.filter_eq_append_iff.mp h
  obtain ⟨l, w, rfl, rfl, rfl⟩ := List.map_eq_append_iff.mp huv
  obtain ⟨u', v', huv', hnone, hq, hafter⟩ := List.filter_eq_cons_iff.mp hv
  obtain ⟨l', w', rfl, rfl, hw'⟩ := List.map_eq_append_iff.mp huv'
  obtain ⟨p, r, rfl, rfl, rfl⟩ := List.map_eq_cons_iff.mp hw'
  refine ⟨rfl, of_decide_eq_true hq, l ++ l', r, by simp, ?_, hafter⟩
  rw [candidates, List.map_append, List.filter_append, hbefore, List.filter_eq_nil_iff.mpr hnone, List.append_nil]

theorem mem_candidates {s : State} {line x : Nat} {sprites : List Sprite} {p : Sprite} (hp : p ∈ sprites)
    (hi : spriteIndex s line p x ≠ 0) :
    { sprite := p, index := spriteIndex s line p x } ∈ candidates s line sprites x :=
  List.mem_filter.mpr ⟨List.mem_map.mpr ⟨p, hp, rfl⟩, decide_eq_true hi⟩

/-- The winner among the sprites of the line (R1035). -/
theorem exists_split_of_winningSprite {s : State} {line x : Nat} {sprites : List Sprite} {q : SpritePixel}
    (h : winningSprite s line sprites x = some q) :
    q.index = spriteIndex s line q.sprite x ∧ q.index ≠ 0 ∧ ∃ before after, sprites = before ++ q.sprite :: after ∧
      (∀ p ∈ before, spriteIndex s line p x ≠ 0 → s.params.mode = .monochrome ∧ q.sprite.x.toNat < p.x.toNat) ∧
      (∀ p ∈ after, spriteIndex s line p x ≠ 0 → s.params.mode = .monochrome → q.sprite.x.toNat ≤ p.x.toNat) := by
  cases hon : s.ppu.lcdc.getLsbD 1 with
  | false => rw [winningSprite_of_off hon] at h; cases h
  | true =>
    rw [winningSprite_of_on hon] at h
    obtain ⟨_, _, hsplit, hbefore, hafter⟩ := wins_of_bestSprite h
    obtain ⟨hindex, hopaque, before, after, hsprites, rfl, rfl⟩ := exists_split_of_candidates hsplit
    exact ⟨hindex, hopaque, before, after, hsprites, fun p hp hi => hbefore _ (mem_candidates hp hi),
      fun p hp hi => hafter _ (mem_candidates hp hi)⟩

/-! ## A blank line (R1032) -/

/-- With background and sprites off a monochrome line is shade 0. -/
theorem renderRow_blank {s : State} (hm : s.params.mode = .monochrome) (hbg : s.ppu.lcdc.getLsbD 0 = false)
    (hobj : s.ppu.lcdc.getLsbD 1 = false) (line : Nat) :
    renderRow s line = List.replicate 160 (s.params.shades.color 0) := by
  have hoff : bgEnabled s = false := by rw [bgEnabled, hm]; exact hbg
  have hcolor (bg : TilePixel) : bgColor s bg = s.params.shades.color 0 := by simp [bgColor, hm, hoff]
  refine List.eq_replicate_iff.mpr ⟨renderRow_length s line, fun c hc => ?_⟩
  obtain ⟨x, -, rfl⟩ := List.mem_map.mp hc
  rw [pixelColor, winningSprite_of_off hobj]
  exact hcolor _

end Sys2Proof.Machine

open Sys2Proof Sys2Proof.Machine

/-- Settles O57: the sprites of a line are the covering ones among the first entries of OAM (`exists_lineSprites`),
the winner splits them (`exists_split_of_winningSprite`), and a blank line shows shade 0 (`renderRow_blank`). -/
theorem spriteWinner : Obligations.SpriteWinner := by
  unfold Obligations.SpriteWinner
  intro s line x
  obtain ⟨n, hn, hmem, hsub, hfew⟩ := exists_lineSprites s line
  exact ⟨⟨n, hn, hsub, fun p hp => ((hmem p).mp hp).2, List.length_take_le _ _, hfew,
      fun i hi hcovers => (hmem _).mpr ⟨⟨i, hi, rfl⟩, hcovers⟩⟩,
    winningSprite_eq_none_iff s line _ x, fun _ => exists_split_of_winningSprite,
    fun hm hbg hobj => renderRow_blank hm hbg hobj line⟩

end

section
/-! SUPPORT. The picture engine over any number of dots in closed form (65_ppu.md R1001 to R1004, R1020 to R1022). -/

namespace Sys2Proof.Machine

/-! ## Requests -/

/-- From s to t the bits of IF that R names are set, and no other bit changes. -/
def Raises (R : Nat → Prop) (s t : State) : Prop :=
  ∀ k, t.irq.iflag.getLsbD k = true ↔ s.irq.iflag.getLsbD k = true ∨ R k

theorem Raises.trans {R R' : Nat → Prop} {s t u : State} (h : Raises R s t) (h' : Raises R' t u) :
    Raises (fun k => R k ∨ R' k) s u := fun k => by rw [h' k, h k, or_assoc]

theorem Raises.congr {R R' : Nat → Prop} {s t : State} (h : Raises R s t) (hR : ∀ k, R k ↔ R' k) : Raises R' s t :=
  fun k => by rw [h k, hR k]

theorem Raises.of_irq {R : Nat → Prop} {s t : State} (h : t.irq = s.irq) (hR : ∀ k, ¬ R k) : Raises R s t :=
  fun k => by simp only [h, hR k, or_false]

theorem raises_request (q : Source) (s : State) : Raises (· = q.bit) s (request q s) := by
  intro k
  have hbit : (BitVec.twoPow 5 q.bit).getLsbD k = decide (k = q.bit) := by
    simp [BitVec.getLsbD_twoPow, q.bit_lt, eq_comm, -BitVec.getLsbD_eq_getElem]
  rw [request_irq, BitVec.getLsbD_or, hbit, Bool.or_eq_true, decide_eq_true_eq]

theorem raises_statTrigger (e : Nat) (s : State) :
    Raises (fun k => k = 1 ∧ s.ppu.stat.getLsbD e = true) s (statTrigger e s) := by
  unfold statTrigger
  split
  · next h => exact (raises_request .stat s).congr fun k => by simp only [h, and_true]; rfl
  · next h => exact .of_irq rfl fun k hk => h hk.2

theorem raises_lycTrigger (s : State) :
    Raises (fun k => k = 1 ∧ s.ppu.stat.getLsbD 3 = true ∧ s.ppu.line = s.ppu.lyc.toNat) s (lycTrigger s) := by
  unfold lycTrigger
  split
  · next h => exact (raises_statTrigger 3 s).congr fun k => by simp only [h, and_true]
  · next h => exact .of_irq rfl fun k hk => h hk.2.2

theorem raises_enterLine (s : State) : Raises (fun k => k = 0 ∧ s.ppu.line = 144 ∨
    k = 1 ∧ (s.ppu.stat.getLsbD 1 = true ∧ s.ppu.line = 144 ∨ s.ppu.stat.getLsbD 2 = true ∧ s.ppu.line < 144))
    s (enterLine s) := by
  unfold enterLine
  split
  · next h =>
    refine Raises.congr (Raises.trans (R := (· = 0)) (raises_request .vblank _) (raises_statTrigger 1 _)) fun k => ?_
    simp [h]
  · next h =>
    split
    · next hl =>
      dsimp only
      split <;> exact (raises_statTrigger 2 _).congr fun k => by simp [h, hl]
    · next hl => exact .of_irq rfl fun k => by simp [h, hl]

theorem enterLine_position (s : State) : (enterLine s).ppu.line = s.ppu.line ∧ (enterLine s).ppu.dot = s.ppu.dot ∧
    (enterLine s).ppu.mode =
      if s.ppu.line = 144 then .vblank else if s.ppu.line < 144 then .oamScan else s.ppu.mode := by
  unfold enterLine
  split
  · rw [statTrigger_ppu]
    exact ⟨rfl, rfl, rfl⟩
  · split
    · rw [statTrigger_ppu]
      dsimp only
      split
      · exact ⟨rfl, rfl, rfl⟩
      · exact ⟨rfl, rfl, rfl⟩
    · exact ⟨rfl, rfl, rfl⟩

theorem Ppu.SameRegs.stat {p q : Ppu} (h : p.SameRegs q) : q.stat = p.stat := by rw [h]

theorem Ppu.SameRegs.lyc {p q : Ppu} (h : p.SameRegs q) : q.lyc = p.lyc := by rw [h]

/-- The requests at the start of a line (R1020 to R1022). -/
theorem raises_startLine (s : State) : Raises (fun k => k = 0 ∧ s.ppu.line = 144 ∨
    k = 1 ∧ (s.ppu.stat.getLsbD 1 = true ∧ s.ppu.line = 144 ∨ s.ppu.stat.getLsbD 2 = true ∧ s.ppu.line < 144 ∨
      s.ppu.stat.getLsbD 3 = true ∧ s.ppu.line = s.ppu.lyc.toNat)) s (lycTrigger (enterLine s)) := by
  have hregs := sameRegs_enterLine s
  refine ((raises_enterLine s).trans (raises_lycTrigger _)).congr fun k => ?_
  rw [hregs.stat, hregs.lyc, (enterLine_position s).1]
  tauto

/-- The requests made when dot q of the frame is reached (R1020 to R1022): VBlank's is number 0, STAT's number 1. -/
def RequestedAt (p : Ppu) (q k : Nat) : Prop := k = 0 ∧ q = 65664 ∨ k = 1 ∧ Spec.statTriggers p q

section
variable {p : Ppu} {q : Nat} (k : Nat)

theorem requestedAt_of_lineStart (h : q % 456 = 0) : RequestedAt p q k ↔ k = 0 ∧ q / 456 = 144 ∨
    k = 1 ∧ (p.stat.getLsbD 1 = true ∧ q / 456 = 144 ∨ p.stat.getLsbD 2 = true ∧ q / 456 < 144 ∨
      p.stat.getLsbD 3 = true ∧ q / 456 = p.lyc.toNat) := by
  have hvblank : q = 65664 ↔ q / 456 = 144 := by omega
  simp [RequestedAt, Spec.statTriggers, h, hvblank]

theorem requestedAt_of_hblank (h : q % 456 = 252) (hl : q / 456 < 144) :
    RequestedAt p q k ↔ k = 1 ∧ p.stat.getLsbD 0 = true := by
  have hvblank : q ≠ 65664 := by omega
  simp [RequestedAt, Spec.statTriggers, h, hl, hvblank]

theorem not_requestedAt (h : q % 456 ≠ 0) (hl : ¬ (q % 456 = 252 ∧ q / 456 < 144)) : ¬ RequestedAt p q k := by
  have hvblank : q ≠ 65664 := by omega
  simp [RequestedAt, Spec.statTriggers, h, hl, hvblank]

end

/-! ## One dot -/

/-- The picture engine is at dot q of the frame, in the mode of R1002. -/
structure Ppu.At (p : Ppu) (q : Nat) : Prop where
  line : p.line = q / 456
  dot : p.dot = q % 456
  mode : p.mode = modeAt p.line p.dot

/-- The dot after dot q of the frame. -/
def nextDot (q : Nat) : Nat := (q + 1) % 70224

/-- What the dot from q does to the picture engine, to IF and to the rows handed out. -/
structure DotEffect (q : Nat) (s t : State) : Prop where
  reached : t.ppu.At (nextDot q)
  rows : t.video.length = s.video.length + if nextDot q % 456 = 252 ∧ nextDot q / 456 < 144 then 1 else 0
  requests : Raises (RequestedAt s.ppu (nextDot q)) s t

/-- The mode changes at dot 80 and dot 252 of a visible line only. -/
theorem modeAt_succ {line dot : Nat} (h : ¬ (dot = 251 ∧ line < 144)) :
    modeAt line (dot + 1) = if dot = 79 ∧ line < 144 then .drawing else modeAt line dot := by
  unfold modeAt
  grind

/-- A dot within a line that enters no HBlank. -/
theorem ppuDot_within {s : State} (h : ¬ (s.ppu.dot = 251 ∧ s.ppu.line < 144)) (hd : s.ppu.dot ≠ 455) :
    ppuDot s = { s with
      ppu.dot := s.ppu.dot + 1
      ppu.mode := if s.ppu.dot = 79 ∧ s.ppu.line < 144 then .drawing else s.ppu.mode } := by
  unfold ppuDot
  grind

theorem ppuDot_of_lineEnd {s : State} (h : s.ppu.dot = 455) : ppuDot s = nextLine s := by
  simp [ppuDot, h, nextLine]

theorem hblankHdma_eq (s : State) :
    hblankHdma s = { s with mem := (hblankHdma s).mem, hdma := (hblankHdma s).hdma } := by
  cases ha : s.hdma.active with
  | false => rw [hblankHdma_of_not_active ha]
  | true => rw [hblankHdma_of_active ha]

/-- Entry into HBlank hands out a row and makes STAT's request for mode 0 (R1004, R1022). -/
theorem enterHblank_eq (s : State) : ∃ row winLine winSeen mem hdma, enterHblank s =
    statTrigger 0 { s with
      ppu.mode := .hblank, ppu.winLine := winLine, ppu.winSeen := winSeen
      video := row :: s.video, mem := mem, hdma := hdma } := by
  unfold enterHblank
  simp only
  rw [hblankHdma_eq, renderLine_eq]
  exact ⟨_, _, _, _, _, rfl⟩

theorem nextLine_position (s : State) :
    (nextLine s).ppu.line = (s.ppu.line + 1) % 154 ∧ (nextLine s).ppu.dot = 0 ∧
    (nextLine s).ppu.mode = if (s.ppu.line + 1) % 154 = 144 then .vblank
      else if (s.ppu.line + 1) % 154 < 144 then .oamScan else s.ppu.mode := by
  rw [nextLine, lycTrigger_eq]
  exact enterLine_position _

theorem nextLine_requests (s : State) {q : Nat} (hq : q % 456 = 0) (hline : q / 456 = (s.ppu.line + 1) % 154) :
    Raises (RequestedAt s.ppu q) s (nextLine s) := by
  refine Raises.congr (raises_startLine { s with ppu.dot := 0, ppu.line := (s.ppu.line + 1) % 154 }) fun k => ?_
  rw [requestedAt_of_lineStart k hq, hline]

section
variable {s : State} {q : Nat} (h : s.ppu.At q)
include h

theorem dotEffect_of_entry (he : s.ppu.dot = 251 ∧ s.ppu.line < 144) : DotEffect q s (ppuDot s) := by
  have hdot := h.dot
  have hline := h.line
  have hnext : nextDot q % 456 = 252 ∧ nextDot q / 456 = q / 456 := by unfold nextDot; omega
  obtain ⟨hmod, hdiv⟩ := hnext
  obtain ⟨row, winLine, winSeen, mem, hdma, heq⟩ := enterHblank_eq { s with ppu.dot := 252 }
  rw [ppuDot_of_entry he, heq]
  refine ⟨⟨?_, ?_, ?_⟩, ?_, ?_⟩
  · rw [statTrigger_ppu, hdiv]; exact hline
  · rw [statTrigger_ppu, hmod]
  · rw [statTrigger_ppu]
    simp [modeAt, he.2]
  · rw [statTrigger_eq, if_pos ⟨hmod, by omega⟩]
    rfl
  · exact (raises_statTrigger 0 _).congr fun k => (requestedAt_of_hblank k hmod (by omega)).symm

variable (hq : q < 70224)
include hq

theorem dotEffect_of_lineEnd (hd : s.ppu.dot = 455) : DotEffect q s (ppuDot s) := by
  have hdot := h.dot
  have hline := h.line
  have hmode := h.mode
  have hnext : nextDot q % 456 = 0 ∧ nextDot q / 456 = (s.ppu.line + 1) % 154 := by unfold nextDot; omega
  obtain ⟨hmod, hdiv⟩ := hnext
  obtain ⟨hl, hd0, hm⟩ := nextLine_position s
  rw [ppuDot_of_lineEnd hd]
  refine ⟨⟨hl.trans hdiv.symm, hd0.trans hmod.symm, ?_⟩, ?_, nextLine_requests s hmod hdiv⟩
  · rw [hm, hl, hd0, hmode]
    unfold modeAt
    grind
  · rw [nextLine_eq, if_neg (by omega)]
    rfl

theorem dotEffect_within (he : ¬ (s.ppu.dot = 251 ∧ s.ppu.line < 144)) (hd : s.ppu.dot ≠ 455) :
    DotEffect q s (ppuDot s) := by
  have hdot := h.dot
  have hline := h.line
  have hnext : nextDot q % 456 = s.ppu.dot + 1 ∧ nextDot q / 456 = s.ppu.line := by unfold nextDot; omega
  obtain ⟨hmod, hdiv⟩ := hnext
  have hno : ¬ (nextDot q % 456 = 252 ∧ nextDot q / 456 < 144) := by omega
  rw [ppuDot_within he hd]
  refine ⟨⟨hdiv.symm, hmod.symm, ?_⟩, ?_, ?_⟩
  · exact (modeAt_succ he).trans (by rw [h.mode]) |>.symm
  · rw [if_neg hno]
    rfl
  · exact .of_irq rfl fun k => not_requestedAt k (by omega) hno

theorem dotEffect_ppuDot : DotEffect q s (ppuDot s) := by
  by_cases he : s.ppu.dot = 251 ∧ s.ppu.line < 144
  · exact dotEffect_of_entry h he
  · by_cases hd : s.ppu.dot = 455
    · exact dotEffect_of_lineEnd h hq hd
    · exact dotEffect_within h hq he hd

end

/-! ## Many dots -/

/-- The requests depend on the registers alone. -/
theorem RequestedAt.congr {p p' : Ppu} (h : p.SameRegs p') (q k : Nat) : RequestedAt p' q k ↔ RequestedAt p q k := by
  rw [h]
  rfl

/-- The picture engine d dots after dot q of the frame, where it was in s. -/
structure DotsEffect (q d : Nat) (s t : State) : Prop where
  reached : t.ppu.At ((q + d) % 70224)
  regs : s.ppu.SameRegs t.ppu
  rows : t.video.length = s.video.length + ((List.range d).filter fun j =>
    decide ((q + j + 1) % 70224 % 456 = 252 ∧ (q + j + 1) % 70224 / 456 < 144)).length
  requests : Raises (fun k => ∃ j, j < d ∧ RequestedAt s.ppu ((q + j + 1) % 70224) k) s t

theorem DotsEffect.succ {q d : Nat} {s t : State} (h : DotsEffect q d s t) : DotsEffect q (d + 1) s (ppuDot t) := by
  have hdot := dotEffect_ppuDot h.reached (Nat.mod_lt _ (by decide))
  have hnext : nextDot ((q + d) % 70224) = (q + d + 1) % 70224 := by unfold nextDot; omega
  refine ⟨?_, h.regs.trans (UnitFrame.ppuDot t).ppu, ?_, ?_⟩
  · rw [← Nat.add_assoc, ← hnext]
    exact hdot.reached
  · rw [hdot.rows, h.rows, hnext, List.range_succ, List.filter_append, List.length_append, Nat.add_assoc]
    simp only [List.filter_cons, List.filter_nil, decide_eq_true_eq]
    split
    · rfl
    · rfl
  · refine (h.requests.trans hdot.requests).congr fun k => ?_
    rw [RequestedAt.congr h.regs, hnext, Nat.exists_lt_succ_right]

theorem dotsEffect_repeatN {q : Nat} {s : State} (h : s.ppu.At q) (hq : q < 70224) (d : Nat) :
    DotsEffect q d s (repeatN ppuDot d s) := by
  induction d with
  | zero => exact ⟨by rwa [Nat.add_zero, Nat.mod_eq_of_lt hq], rfl, rfl, .of_irq rfl (by simp)⟩
  | succ d ih =>
    rw [repeatN_add]
    exact ih.succ

/-- A legal position is a dot of the frame (R1001, R1002). -/
theorem PpuLegal.at_framePosition {p : Ppu} (h : PpuLegal p) (hon : p.lcdOn = true) :
    p.At (Spec.framePosition p) ∧ Spec.framePosition p < 70224 := by
  rw [PpuLegal, if_pos hon] at h
  obtain ⟨hline, hdot, hmode⟩ := h
  unfold Spec.framePosition
  exact ⟨⟨by omega, by omega, hmode⟩, by omega⟩

end Sys2Proof.Machine

open Sys2Proof Sys2Proof.Machine

/-- Settles O56: by induction on the dots (`DotsEffect.succ`), each of which has one effect (`dotEffect_ppuDot`). -/
theorem pictureTiming : Obligations.PictureTiming := by
  unfold Obligations.PictureTiming
  intro s d hlegal
  refine ⟨fun hoff => ?_, fun hon => ?_⟩
  · exact if_neg (by rw [Ppu.lcdOn, hoff]; decide)
  · obtain ⟨hat, hq⟩ := hlegal.at_framePosition hon
    have hrun : ppuAdvance d s = repeatN ppuDot d s := if_pos hon
    simp only [hrun]
    obtain ⟨⟨hline, hdot, hmode⟩, -, hrows, hrequests⟩ := dotsEffect_repeatN hat hq d
    refine ⟨hline, hdot, ?_, hrows, ?_, ?_, fun k hk => ?_⟩
    · rw [hmode, hline, hdot]
      rfl
    · simpa [RequestedAt] using hrequests 0
    · simpa [RequestedAt] using hrequests 1
    · have hnot (q : Nat) : ¬ RequestedAt s.ppu q k := by
        unfold RequestedAt
        omega
      exact Bool.eq_iff_iff.mpr ((hrequests k).trans (by simp [hnot]))

end

section
/-! SUPPORT. The machine built of an image of zeros (70_reset_and_hazards.md R1100, R1101; log 1). -/

namespace Sys2Proof.Machine

/-- Zeros past the palettes are what memory holds unlisted, so none of them is listed. -/
theorem writeList_zeros {k : Nat} (hk : bgPalBase + 128 ≤ k) (n : Nat) :
    Memory.writeList [] k (List.replicate n 0) = [] := by
  induction n generalizing k with
  | zero => rfl
  | succ n ih =>
    have hzero : Memory.unlisted k = 0 := if_neg (by omega)
    have hwrite : Memory.write [] k 0 = [] := hzero ▸ Memory.write_unlisted_nil k
    rw [List.replicate_succ, Memory.writeList, hwrite]
    exact ih (by omega)

theorem imageByte_replicate_zero (n i : Nat) : imageByte (List.replicate n 0) i = 0 := by
  rw [imageByte, List.getD_eq_getElem?_getD, List.getElem?_replicate]
  split
  · rfl
  · rfl

/-- Two banks of zeros are a no-mapper image without cartridge RAM (R303). -/
theorem makeMapper_zeros {n : Nat} (hn : n = 2 * 16384) :
    makeMapper (List.replicate n 0) = .ok (.noMapper, ⟨2, 0, 0⟩) := by
  have hvariant : selectVariant 0 = some .noMapper := rfl
  have hcart : cartOf 0 0 = ⟨2, 0, 0⟩ := rfl
  unfold makeMapper
  simp only [List.length_replicate, imageByte_replicate_zero, hvariant, hcart]
  rw [if_neg (by omega), if_neg (by decide), if_neg (by decide), if_neg (by omega)]
  rfl

/-- The boot-skip machine of an image of zeros has nothing listed. -/
theorem build_zeros (draws : State) : build (List.replicate 32768 0) BuildOptions.default draws = .ok State.reset := by
  have hmem : placeCart 0 (List.replicate 32768 0) [] [] = [] := by
    rw [placeCart, writeList_zeros (by decide)]
    rfl
  rw [build, makeMapper_zeros rfl]
  simp only [imageByte_replicate_zero]
  change Except.ok (State.bootSkip _ _ _ _ (placeCart 0 (List.replicate 32768 0) [] [])) = _
  rw [hmem]
  rfl

end Sys2Proof.Machine

open Sys2Proof Sys2Proof.Machine

/-- Settles O44: reset is the boot-skip machine (`Inv.bootSkip`) and the one built of zeros (`build_zeros`). -/
theorem resetInv : Obligations.ResetInv := by
  unfold Obligations.ResetInv
  exact ⟨.bootSkip _ _ (fun h => absurd rfl h) trivial rfl, build_zeros⟩

end
